-- ==== Sys2Proof/Word.lean ====
section
/-! DEFINITION. The word types of the engine: 32-bit words (00_scope.md R7), bytes (20_memory.md R60) and the 32-bit encodings of
IEEE 754 binary32 values (00_scope.md R12). -/

namespace Sys2Proof

/-- A 32-bit word: a register, a bus address, a memory element. -/
abbrev Word := BitVec 32

/-- One byte of memory. -/
abbrev Byte := BitVec 8

/-- The encoding of a binary32 value. `as_f32` and `bits` of R12 are the identity on it, so a copied NaN keeps its payload. -/
abbrev F32 := BitVec 32

end Sys2Proof
end

