-- ==== Sys2Proof/Config.lean ====
section
/-! DEFINITION. What one implementation fixes (the parameters of 00_scope.md R6) and the free values of the model. The parameters are
carried in State and no step changes them, so a statement about every state holds for every implementation. -/

namespace Sys2Proof

/-- A half-open range of byte addresses, as `[lo, hi)` in 20_memory.md R61. Its ends are exact naturals: 2^32 is a legal end. -/
structure AddrRange where
  lo : Nat
  hi : Nat
deriving DecidableEq, Repr

/-- The parameters of 00_scope.md R6. DESIGN CHOICE (log 21): the platform predicate `memAdmits` is held as the list of the ranges in
which it is false; over 2^32 addresses every predicate has such a list. -/
structure Config where
  /-- ENGINE_BASE: the address of the register window on the host's bus. DESIGN CHOICE (log 27): 32 bits, as every host bus address;
  the spec fixes that width for the engine's memory port alone. -/
  engineBase : Word
  /-- MAX_W. -/
  maxW : BitVec 16
  /-- MAX_H. -/
  maxH : BitVec 16
  /-- KMAX_SIDE. -/
  kmaxSide : BitVec 8
  /-- DMAX. -/
  dmax : BitVec 8
  /-- NUM_WORKERS. -/
  numWorkers : BitVec 8
  /-- Where `memAdmits` is false: an engine access to an address in one of these ranges ends in a bus error. -/
  denied : List AddrRange
deriving DecidableEq, Repr

/-- The defaults of 00_scope.md R6. DESIGN CHOICE (log 4): the spec leaves ENGINE_BASE and memAdmits to the platform; here the window
is at 0xF0000000 and, as 20_memory.md R60 asks, it is not admitted; every other address is. -/
def Config.default : Config where
  engineBase := 0xF0000000
  maxW := 4096
  maxH := 4096
  kmaxSide := 31
  dmax := 15
  numWorkers := 4
  denied := [⟨0xF0000000, 0xF0000100⟩]

/-- The free words (20_memory.md R83, 70_reset_and_hazards.md R222 and R230): draw number n is `freeWord n`. It has no body, so a
claim that mentions a drawn word holds for every value of it (log 9). -/
opaque Config.freeWord : Nat → Word

end Sys2Proof
end

