-- ==== Sys2Proof/Syntax.lean ====
section
/-! DEFINITION. The instructions: one constructor for each row of spec/opcode_table.json. -/

namespace Sys2Proof

/-- The thirteen legal command words (30_encoding.md R90) and the four control actions (R95). A command has no operand field: its
operands are the latched parameter registers (R91, R92). A control action carries the fields of its write data. -/
inductive Instr where
  /-- 0x01, 41_fir.md R133. -/
  | conv
  /-- 0x02, 42_order_stat.md R150. -/
  | median
  /-- 0x03, 42_order_stat.md R151. -/
  | min
  /-- 0x04, 42_order_stat.md R152. -/
  | max
  /-- 0x05, 42_order_stat.md R153. -/
  | midpoint
  /-- 0x06, 43_dct.md R164. -/
  | dct
  /-- 0x07, 43_dct.md R166. -/
  | idct
  /-- 0x08, 44_spectral_mask.md R181. -/
  | lowpass
  /-- 0x09, 44_spectral_mask.md R182. -/
  | highpass
  /-- 0x0A, 44_spectral_mask.md R184. -/
  | normalize
  /-- 0x16, 43_dct.md R164 with the visual output of 44_spectral_mask.md R187. -/
  | dctVis
  /-- 0x18, 44_spectral_mask.md R181 with the visual output of R187. -/
  | lowpassVis
  /-- 0x19, 44_spectral_mask.md R182 with the visual output of R187. -/
  | highpassVis
  /-- CTRL write, bit 0 = 1 and bit 1 = 0; bit 2 is the new IRQ_EN (40_command_control.md R107). -/
  | start (irqEn : Bool)
  /-- CTRL write, bit 1 = 1 (70_reset_and_hazards.md R221). -/
  | srst
  /-- CTRL write, bits 1:0 = 0; bit 2 is the new IRQ_EN (40_command_control.md R106). -/
  | setIrq (irqEn : Bool)
  /-- STATUS write; bits 1, 2, 3 select DONE, ERR, DEGEN (40_command_control.md R115). -/
  | clear (done err degen : Bool)
deriving DecidableEq, Repr

end Sys2Proof
end

