-- ==== Sys2Proof/WellFormed.lean ====
section
/-! DEFINITION. Which instructions and which parameters are legal. -/

namespace Sys2Proof

/-- Every instruction is well formed: a command has no field, and a control action's fields are single bits with both values legal
(30_encoding.md R94, R95). Illegal words are no instruction at all; the decoder rejects them. -/
def Instr.wf : Instr → Bool
  | .conv | .median | .min | .max | .midpoint | .dct | .idct | .lowpass | .highpass | .normalize => true
  | .dctVis | .lowpassVis | .highpassVis => true
  | .start _ | .srst | .setIrq _ | .clear _ _ _ => true

/-- The legal ranges of 00_scope.md R6. The upper bounds 65535 and 255 are the widths of the fields. -/
def Config.wf (c : Config) : Bool :=
  c.engineBase.toNat % 0x100 == 0 &&
  1 ≤ c.maxW.toNat && 1 ≤ c.maxH.toNat &&
  1 ≤ c.kmaxSide.toNat &&
  c.dmax.toNat ≤ 127 &&
  1 ≤ c.numWorkers.toNat

end Sys2Proof
end

