-- ==== Sys2Proof/Decode.lean ====
section
/-! DEFINITION. Decoding: command words (30_encoding.md R88 to R93) and control-action write data (R95), total on every word and on
every list of bytes, and then the encoder. -/

namespace Sys2Proof

/-- The register whose content or write data a word is. The same number means different things in each (log 3). -/
inductive Target where
  /-- The content of CMD at START. -/
  | cmd
  /-- The data of a write to CTRL. -/
  | ctrl
  /-- The data of a write to STATUS. -/
  | status
deriving DecidableEq, Repr

/-- Why a word is no instruction. -/
inductive DecodeError where
  /-- OP is 0x0 or 0xB..0xF (30_encoding.md R93). -/
  | reservedOp
  /-- A bit of CMD[31:5] is set (R93). -/
  | reservedBits
  /-- VIS = 1 with an OP other than 0x6, 0x8, 0x9 (R93). -/
  | visNotAllowed
  /-- Not exactly four bytes: every word is 32 bits (R94). -/
  | wrongLength
deriving DecidableEq, Repr

/-- The opcode map of 30_encoding.md R89, with the VIS bit. -/
def commandOf : Nat → Bool → Option Instr
  | 0x1, false => some .conv
  | 0x2, false => some .median
  | 0x3, false => some .min
  | 0x4, false => some .max
  | 0x5, false => some .midpoint
  | 0x6, false => some .dct
  | 0x7, false => some .idct
  | 0x8, false => some .lowpass
  | 0x9, false => some .highpass
  | 0xA, false => some .normalize
  | 0x6, true => some .dctVis
  | 0x8, true => some .lowpassVis
  | 0x9, true => some .highpassVis
  | _, _ => none

/-- The command word in CMD (30_encoding.md R88, R90). A rejected word is the E_ILLEGAL of R93. -/
def decodeCommand (w : Word) : Except DecodeError Instr :=
  let op := (w.extractLsb' 0 4).toNat
  let vis := w.getLsbD 4
  if op = 0 ∨ 0xA < op then .error .reservedOp
  else if w.extractLsb' 5 27 ≠ 0 then .error .reservedBits
  else match commandOf op vis with
    | some i => .ok i
    | none => .error .visNotAllowed

/-- The data of a CTRL write (30_encoding.md R95, 40_command_control.md R106): SRST wins over START, and bits 31:3 are ignored. -/
def decodeCtrl (v : Word) : Instr :=
  if v.getLsbD 1 then .srst
  else if v.getLsbD 0 then .start (v.getLsbD 2)
  else .setIrq (v.getLsbD 2)

/-- The data of a STATUS write (40_command_control.md R115): the other data bits are ignored. -/
def decodeStatus (v : Word) : Instr :=
  .clear (v.getLsbD 1) (v.getLsbD 2) (v.getLsbD 3)

/-- A word, given the register it belongs to. -/
def decode (t : Target) (w : Word) : Except DecodeError Instr :=
  match t with
  | .cmd => decodeCommand w
  | .ctrl => .ok (decodeCtrl w)
  | .status => .ok (decodeStatus w)

/-- The four bytes of a word, little-endian (92_eei_decisions.md D8). -/
def wordBytes (w : Word) : List Byte :=
  [w.extractLsb' 0 8, w.extractLsb' 8 8, w.extractLsb' 16 8, w.extractLsb' 24 8]

/-- The word of four bytes, the byte at the lowest address first (00_scope.md R10). -/
def wordOfBytes (b0 b1 b2 b3 : Byte) : Word := b3 ++ b2 ++ b1 ++ b0

/-- Any bytes, given the register they belong to. -/
def decodeBytes (t : Target) : List Byte → Except DecodeError Instr
  | [b0, b1, b2, b3] => decode t (wordOfBytes b0 b1 b2 b3)
  | _ => .error .wrongLength

/-- The encoder: the register and the word of an instruction (30_encoding.md R95, R99), reserved bits 0. -/
def encode : Instr → Target × Word
  | .conv => (.cmd, 0x00000001)
  | .median => (.cmd, 0x00000002)
  | .min => (.cmd, 0x00000003)
  | .max => (.cmd, 0x00000004)
  | .midpoint => (.cmd, 0x00000005)
  | .dct => (.cmd, 0x00000006)
  | .idct => (.cmd, 0x00000007)
  | .lowpass => (.cmd, 0x00000008)
  | .highpass => (.cmd, 0x00000009)
  | .normalize => (.cmd, 0x0000000A)
  | .dctVis => (.cmd, 0x00000016)
  | .lowpassVis => (.cmd, 0x00000018)
  | .highpassVis => (.cmd, 0x00000019)
  | .start irqEn => (.ctrl, if irqEn then 0x5 else 0x1)
  | .srst => (.ctrl, 0x2)
  | .setIrq irqEn => (.ctrl, if irqEn then 0x4 else 0x0)
  | .clear done err degen =>
    (.status, (if done then 0x2 else 0x0) ||| (if err then 0x4 else 0x0) ||| (if degen then 0x8 else 0x0))

/-- The register a bare table word belongs to. DESIGN CHOICE (log 3): the table numbers words of three registers alike. A row of 32
fixed bits is a command word. Otherwise the row is write data: a word with bit 3 set can only mean something in STATUS, since CTRL
reserves bits 31:3; a row without any bits is the STATUS row; the rest is CTRL's. So a 32-bit word that is no legal command is read as
write data too (0x0B as CLEAR, 0x00 as SETIRQ), and not as no instruction; no step asks this. -/
def tableTarget (nbits : Nat) (w : Word) : Target :=
  if 32 ≤ nbits ∧ (decodeCommand w).isOk then .cmd
  else if nbits = 0 ∨ w.getLsbD 3 then .status
  else .ctrl

/-- The instruction read from a word numbered as spec/opcode_table.json numbers it. -/
def decodeTableWord (nbits w : Nat) : Option Instr :=
  if w < 2 ^ 32 then
    let word := BitVec.ofNat 32 w
    (decodeBytes (tableTarget nbits word) (wordBytes word)).toOption
  else none

end Sys2Proof
end

