-- ==== Sys2Proof/Machine/State.lean ====
section
/-! DEFINITION. The state of the engine (10_state.md R56) as plain data, with the agenda that says which agent moves next. -/

namespace Sys2Proof.Machine

/-- The ten operations of 30_encoding.md R89. A command is an operation with its VIS bit. -/
inductive Op where
  | conv
  | median
  | min
  | max
  | midpoint
  | dct
  | idct
  | lowpass
  | highpass
  | normalize
deriving DecidableEq, Repr

/-- The eleven parameter registers (10_state.md R35, R36). -/
inductive ParamReg where
  | cmd
  | width
  | height
  | srcAddr
  | srcLen
  | dstAddr
  | visAddr
  | kerAddr
  | klen
  | dist
  | radius
deriving DecidableEq, Repr

/-- The named registers of the window (10_state.md R36). -/
inductive Reg where
  | id
  | version
  | caps
  | capsDim
  | ctrl
  | status
  | param (p : ParamReg)
  | outW
  | outH
deriving DecidableEq, Repr

/-- The contents of the parameter registers, and of the LATCH (10_state.md R51). -/
structure Params where
  cmd : Word
  width : Word
  height : Word
  srcAddr : Word
  srcLen : Word
  dstAddr : Word
  visAddr : Word
  kerAddr : Word
  klen : Word
  dist : Word
  radius : Word
deriving DecidableEq, Repr

/-- All parameter registers 0 (10_state.md R54). -/
def Params.zero : Params := ⟨0, 0, 0, 0, 0, 0, 0, 0, 0, 0, 0⟩

/-- The sequencer (10_state.md R32). STATUS.BUSY is a view of it. -/
inductive Sequencer where
  | idle
  | busy
deriving DecidableEq, Repr

/-- The errors of 60_exceptions.md R195. -/
inductive CmdError where
  /-- E_DIM, code 1. -/
  | dim
  /-- E_KERNEL, code 2. -/
  | kernel
  /-- E_ILLEGAL, code 3. -/
  | illegal
  /-- E_ALIGN, code 4. -/
  | align
  /-- E_ADDR, code 5. -/
  | addr
  /-- E_BUS, code 6. -/
  | bus
deriving DecidableEq, Repr

/-- One turn of the agenda: a step of the host, of the engine or of the reset input (10_state.md R56). -/
inductive Turn where
  /-- The engine may move: EXEC, if a command is running (40_command_control.md R110). -/
  | engine
  /-- A host bus read of `len` bytes; a bus address has 32 bits (log 27). In the window it is a register transaction (30_encoding.md R85, R86). -/
  | read (addr : Word) (len : Nat)
  /-- A host bus write of the bytes, the first at `addr`. -/
  | write (addr : Word) (data : List Byte)
  /-- `poll REG, mask, value` (30_encoding.md R96, R98): reads until `(data & mask) = value`. -/
  | poll (addr mask value : Word)
  /-- The host waits for the IRQ line (30_encoding.md R97). -/
  | waitIrq
  /-- The reset input is asserted (70_reset_and_hazards.md R220). -/
  | reset
deriving DecidableEq, Repr

/-- Memory: (address, byte) pairs, addresses strictly rising, no entry equal to what an unlisted address reads as. -/
abbrev Memory := List Host.Cell

/-- Why a step faults. -/
inductive Fault where
  /-- Raised by a host memory access whose bytes run past address 2^32-1: 20_memory.md R60 says there is no such address. Safe: the
  model stops and gives the access no effect (log 16). -/
  | beyondAddressSpace
deriving DecidableEq, Repr

/-- Why a step is refused. -/
inductive Refusal where
  /-- Raised only by an arm of `exec` whose instruction has no meaning yet; no arm is left so. Safe: the model stops. -/
  | notModelled (mnemonic : String)
deriving DecidableEq, Repr

/-- The whole state: the tuple of 10_state.md R56, the parameters of 00_scope.md R6, and the model's own fields. -/
structure State where
  /-- The implementation parameters; no step changes them. -/
  cfg : Config
  /-- CMD through RADIUS (R36). -/
  params : Params
  /-- LATCH (R51). -/
  latch : Params
  /-- The sequencer (R32). -/
  seq : Sequencer
  /-- CTRL.IRQ_EN (R39). -/
  irqEn : Bool
  /-- STATUS.DONE (R40). -/
  done : Bool
  /-- STATUS.ERR (R40). -/
  err : Bool
  /-- STATUS.DEGEN (R40). -/
  degen : Bool
  /-- STATUS.ERRCODE (R40). -/
  errcode : BitVec 4
  /-- OUT_W (R48). -/
  outW : Word
  /-- OUT_H (R48). -/
  outH : Word
  /-- The memory M (R56). -/
  mem : Memory
  /-- The HAZARD mark (70_reset_and_hazards.md R230). -/
  hazard : Bool
  /-- The REFUSED mark (30_encoding.md R86). -/
  refused : Bool
  /-- The model's own: another agent touched the running command's ranges, so its results are free (log 10). -/
  torn : Bool
  /-- The model's own: how many free words have been drawn (log 9). -/
  draws : Nat
  /-- The model's own: the bytes the last bus read returned (log 15). -/
  hostData : List Byte
  /-- The model's own: the turns still to be taken (log 1). -/
  agenda : List Turn
deriving DecidableEq, Repr

/-- The state right after reset (10_state.md R54): memory lists nothing, no mark is set and no turn is waiting. LATCH is "unspecified";
DESIGN CHOICE (log 6): zeros. -/
def State.reset : State where
  cfg := Config.default
  params := Params.zero
  latch := Params.zero
  seq := .idle
  irqEn := false
  done := false
  err := false
  degen := false
  errcode := 0
  outW := 0
  outH := 0
  mem := []
  hazard := false
  refused := false
  torn := false
  draws := 0
  hostData := []
  agenda := []

end Sys2Proof.Machine
end

