-- ==== Sys2Proof/Machine/Flags.lean ====
section
/-! DEFINITION. The status flags, the CTRL and STATUS words and the interrupt line (10_state.md R39, R40, R53, R55). -/

namespace Sys2Proof.Machine

/-- The code of an error (60_exceptions.md R195). -/
def CmdError.code : CmdError → BitVec 4
  | .dim => 1
  | .kernel => 2
  | .illegal => 3
  | .align => 4
  | .addr => 5
  | .bus => 6

/-- STATUS.BUSY: the sequencer is BUSY (10_state.md R32). -/
def State.busy (s : State) : Bool := s.seq == .busy

/-- What a read of STATUS returns (10_state.md R40). -/
def statusWord (s : State) : Word :=
  0#20 ++ s.errcode ++ 0#4 ++ BitVec.ofBool s.degen ++ BitVec.ofBool s.err ++ BitVec.ofBool s.done ++ BitVec.ofBool s.busy

/-- What a read of CTRL returns: the action bits read 0 (10_state.md R39). -/
def ctrlWord (s : State) : Word := if s.irqEn then 4 else 0

/-- The IRQ output (10_state.md R53, 60_exceptions.md R203). -/
def irq (s : State) : Bool := s.irqEn && (s.done || s.err)

/-- All four flags and ERRCODE as an accepted START leaves them, BUSY apart (40_command_control.md R107). -/
def clearAllFlags (s : State) : State :=
  { s with done := false, err := false, degen := false, errcode := 0 }

/-- The write-one-to-clear bits of a STATUS write (40_command_control.md R115): clearing ERR also sets ERRCODE to 0. -/
def clearFlags (done err degen : Bool) (s : State) : State :=
  { s with
    done := s.done && !done
    degen := s.degen && !degen
    err := s.err && !err
    errcode := if err then 0 else s.errcode }

end Sys2Proof.Machine
end

