-- ==== Sys2Proof/Machine/Float.lean ====
section
/-! DEFINITION. IEEE 754 binary32 arithmetic (00_scope.md R12 to R16). The magnitude of a finite value is an exact natural number of
units of 2^-149, the smallest subnormal, so every operation is exact integer arithmetic followed by one rounding. -/

namespace Sys2Proof.Machine

/-- The sign bit. -/
def f32Sign (a : F32) : Bool := a.getLsbD 31

/-- The biased exponent, bits 30:23. -/
def f32Exp (a : F32) : Nat := a.toNat / 2 ^ 23 % 2 ^ 8

/-- The fraction, bits 22:0. -/
def f32Frac (a : F32) : Nat := a.toNat % 2 ^ 23

def f32IsNaN (a : F32) : Bool := f32Exp a == 255 && f32Frac a != 0

def f32IsInf (a : F32) : Bool := f32Exp a == 255 && f32Frac a == 0

/-- The magnitude in units of 2^-149. For an infinity this is 2^277, above every finite magnitude, which is what the comparisons need. -/
def f32Mag (a : F32) : Nat :=
  if f32Exp a = 0 then f32Frac a else (2 ^ 23 + f32Frac a) * 2 ^ (f32Exp a - 1)

/-- The signed value in units of 2^-149. -/
def f32Signed (a : F32) : Int := if f32Sign a then -(f32Mag a : Int) else f32Mag a

/-- The bits 30:0 of the magnitude `n / d` (in units of 2^-149) rounded to nearest, ties to even; too large gives infinity. With the
quantum 2^k and the rounded multiple t, the bits are `k * 2^23 + t`: a carry out of t moves into the exponent by itself. -/
def roundMag (n d : Nat) : Nat :=
  let k := Nat.log2 (n / d) - 23
  let q := d * 2 ^ k
  let t := n / q
  let r := n % q
  let t' := if q < 2 * r ∨ (2 * r = q ∧ t % 2 = 1) then t + 1 else t
  Nat.min (k * 2 ^ 23 + t') 0x7F800000

/-- A sign on the bits 30:0 of a magnitude. -/
def f32Pack (sign : Bool) (bits : Nat) : F32 := BitVec.ofNat 32 (if sign then 2 ^ 31 + bits else bits)

/-- The NaN that arithmetic gives. DESIGN CHOICE (log 7): R19 lets a model take any, since none reaches memory or a register. -/
def f32NaN : F32 := 0x7FC00000

def f32Inf (sign : Bool) : F32 := f32Pack sign 0x7F800000

def f32Neg (a : F32) : F32 := a ^^^ 0x80000000

/-- IEEE 754 addition, roundTiesToEven (R13). An exact zero sum is -0.0 only when both operands are negative. -/
def fadd (a b : F32) : F32 :=
  if f32IsNaN a || f32IsNaN b then f32NaN
  else if f32IsInf a then
    if f32IsInf b && f32Sign a != f32Sign b then f32NaN else a
  else if f32IsInf b then b
  else
    let s := f32Signed a + f32Signed b
    if s = 0 then f32Pack (f32Sign a && f32Sign b) 0
    else f32Pack (decide (s < 0)) (roundMag s.natAbs 1)

/-- IEEE 754 subtraction: the addition of the negated operand (R13). -/
def fsub (a b : F32) : F32 := fadd a (f32Neg b)

/-- IEEE 754 multiplication, roundTiesToEven (R13). -/
def fmul (a b : F32) : F32 :=
  let sign := f32Sign a != f32Sign b
  if f32IsNaN a || f32IsNaN b then f32NaN
  else if f32IsInf a || f32IsInf b then
    if f32Mag a = 0 ∨ f32Mag b = 0 then f32NaN else f32Inf sign
  else f32Pack sign (roundMag (f32Mag a * f32Mag b) (2 ^ 149))

/-- IEEE 754 division, roundTiesToEven (R13). -/
def fdiv (a b : F32) : F32 :=
  let sign := f32Sign a != f32Sign b
  if f32IsNaN a || f32IsNaN b then f32NaN
  else if f32IsInf a then
    if f32IsInf b then f32NaN else f32Inf sign
  else if f32IsInf b then f32Pack sign 0
  else if f32Mag b = 0 then
    if f32Mag a = 0 then f32NaN else f32Inf sign
  else f32Pack sign (roundMag (f32Mag a * 2 ^ 149) (f32Mag b))

/-- `a < b`; false on NaN, and the zeros are equal (R14). -/
def flt (a b : F32) : Bool :=
  !f32IsNaN a && !f32IsNaN b && decide (f32Signed a < f32Signed b)

/-- `a > b` (R14). -/
def fgt (a b : F32) : Bool := flt b a

/-- The exact value of a small natural number (R15). -/
def f32OfNat (n : Nat) : F32 := f32Pack false (roundMag (n * 2 ^ 149) 1)

/-- The non-negative rational `n / d` rounded once (`rne32` of R15). -/
def f32OfRatio (n d : Nat) : F32 := f32Pack false (roundMag (n * 2 ^ 149) d)

/-- `sat_u8` (R16): NaN and values at or below 0 give 0, values at or above 255 give 255, others are truncated. -/
def satU8 (a : F32) : Byte :=
  if f32IsNaN a then 0
  else if f32Signed a ≤ 0 then 0
  else if 255 * 2 ^ 149 ≤ f32Mag a then 255
  else BitVec.ofNat 8 (f32Mag a / 2 ^ 149)

/-- The left-to-right fold `Σ^f` from +0.0 (R13). -/
def fsum (ts : List F32) : F32 := ts.foldl fadd 0

end Sys2Proof.Machine
end

