-- ==== Sys2Proof/Machine/Tables.lean ====
section
/-! DEFINITION. The integer square root (00_scope.md R8) and the constant tables of the DCT core (43_dct.md R161, R162): each entry is
the exact real value rounded once (R17). -/

namespace Sys2Proof.Machine

/-- Fix the bits below bit `k` of the square root, from the highest down; `r` holds the bits already fixed. -/
def isqrtBits : Nat → Nat → Nat → Nat
  | 0, _, r => r
  | k + 1, n, r =>
    if (r + 2 ^ k) * (r + 2 ^ k) ≤ n then isqrtBits k n (r + 2 ^ k) else isqrtBits k n r

/-- The largest r with `r*r <= n` (R8). -/
def isqrt (n : Nat) : Nat := isqrtBits (Nat.log2 n / 2 + 1) n 0

/-- `rne32(sqrt(num / den))`, for a root below 2^64. The root to 64 fractional bits is exact from `isqrt`; if anything is left over, the
point halfway to the next multiple of 2^-64 rounds the same way, as no rounding boundary lies strictly between the two. -/
def sqrtRatio (num den : Nat) : F32 :=
  let k := isqrt (num * 2 ^ 128 / den)
  if k * k * den = num * 2 ^ 128 then f32OfRatio k (2 ^ 64) else f32OfRatio (2 * k + 1) (2 ^ 65)

/-- The scale table `sc_N[k]` (R161). -/
def scale (N k : Nat) : F32 := if k = 0 then sqrtRatio 1 N else sqrtRatio 2 N

/-- The partial sum of the cosine series of `x = a/b` as a fraction, by Horner's rule: with `j = 1` and `n` levels it is
`1 - x^2/2! + x^4/4! - ...` up to the power `2n`. -/
def cosSeries (a b : Nat) : Nat → Nat → Nat × Nat
  | 0, _ => (1, 1)
  | n + 1, j =>
    let inner := cosSeries a b n (j + 1)
    let den := b * b * ((2 * j - 1) * (2 * j)) * inner.2
    (den - a * a * inner.1, den)

/-- A lower bound of `cos(π*m / (2N))` for `m <= N`: π from above, the series cut after a negative term. π lies between
3.14159265358979323846 and 3.14159265358979323847. -/
def cosLow (N m : Nat) : Nat × Nat := cosSeries (314159265358979323847 * m) (2 * N * 10 ^ 20) 13 1

/-- An upper bound: π from below, the series cut after a positive term. -/
def cosHigh (N m : Nat) : Nat × Nat := cosSeries (314159265358979323846 * m) (2 * N * 10 ^ 20) 14 1

/-- The first quarter of the twiddle table, `rne32(cos(π*m / (2N)))` for `m < N`. Both bounds round to this value for every N and m
with `m < N <= 65535` (log 8), and then so does the exact value between them. -/
def quarterWave (N m : Nat) : F32 := f32OfRatio (cosLow N m).1 (cosLow N m).2

/-- The two bounds of the entry round alike, so the entry is the exact value rounded once. -/
def quarterWaveDecided (N m : Nat) : Bool :=
  quarterWave N m == f32OfRatio (cosHigh N m).1 (cosHigh N m).2

/-- `TW_N[m]` (R161) by quarter-wave folding (R162). The entries at N and 3N are +0.0. -/
def twiddle (N m : Nat) : F32 :=
  if m = N ∨ m = 3 * N then 0
  else if m < N then quarterWave N m
  else if m ≤ 2 * N then f32Neg (quarterWave N (2 * N - m))
  else if m < 3 * N then f32Neg (quarterWave N (m - 2 * N))
  else quarterWave N (4 * N - m)

/-- `C_N(k, n)` (R161). -/
def cosine (N k n : Nat) : F32 := twiddle N (((2 * n + 1) * k) % (4 * N))

end Sys2Proof.Machine
end

