-- ==== Sys2Proof/Machine/Operands.lean ====
section
/-! DEFINITION. The operands of a command: pixel lanes (00_scope.md R20), geometry and ranges (20_memory.md R61, R70, R71), the words it
accesses, and validation (40_command_control.md R117 to R123). All of it reads only the latched parameters and the configuration. -/

namespace Sys2Proof.Machine

/-! ### Pixels -/

/-- Lane c of a pixel word (00_scope.md R20). -/
def lane (w : Word) (c : Nat) : Byte := w.extractLsb' (8 * c) 8

/-- A PackedColor: lane 2 in bits 23:16, bits 31:24 zero (00_scope.md R20). -/
def pack (l0 l1 l2 : Byte) : Word := 0#8 ++ l2 ++ l1 ++ l0

def gray (g : Byte) : Word := pack g g g

/-- The sort key of a pixel word (00_scope.md R21). -/
def key (w : Word) : Nat := w.toNat % 2 ^ 24

/-- The values `f x y` of a grid in row-major order (00_scope.md R23). -/
def grid {α : Type} (cols rows : Nat) (f : Nat → Nat → α) : List α :=
  (List.range rows).flatMap fun y => (List.range cols).map fun x => f x y

/-! ### Commands -/

/-- The operation and the VIS bit of a command; a control action is none (30_encoding.md R88, R89). -/
def commandOp : Instr → Option (Op × Bool)
  | .conv => some (.conv, false)
  | .median => some (.median, false)
  | .min => some (.min, false)
  | .max => some (.max, false)
  | .midpoint => some (.midpoint, false)
  | .dct => some (.dct, false)
  | .idct => some (.idct, false)
  | .lowpass => some (.lowpass, false)
  | .highpass => some (.highpass, false)
  | .normalize => some (.normalize, false)
  | .dctVis => some (.dct, true)
  | .lowpassVis => some (.lowpass, true)
  | .highpassVis => some (.highpass, true)
  | .start _ | .srst | .setIrq _ | .clear _ _ _ => none

/-- The command in a latched CMD; none where the word is illegal (30_encoding.md R90). -/
def latchedCommand (l : Params) : Option (Op × Bool) :=
  match decodeCommand l.cmd with
  | .ok i => commandOp i
  | .error _ => none

/-! ### Geometry -/

/-- The side of the window: the kernel's (41_fir.md R130) or `2*DIST + 1` (42_order_stat.md R146); one element for the others. -/
def windowSide (op : Op) (l : Params) : Nat :=
  match op with
  | .conv => isqrt l.klen.toNat
  | .median | .min | .max | .midpoint => 2 * l.dist.toNat + 1
  | .dct | .idct | .lowpass | .highpass | .normalize => 1

/-- The width of the excluded border: `side / 2`, which is DIST for the order statistics (41_fir.md R132, 42_order_stat.md R148). -/
def border (op : Op) (l : Params) : Nat := windowSide op l / 2

/-- The output width OW (40_command_control.md R117). DESIGN CHOICE (log 12): where the border exceeds the image it is 0, so that the
destination range of such a command, which E_KERNEL will end, is empty. -/
def outWidth (op : Op) (l : Params) : Nat := l.width.toNat - 2 * border op l

/-- The output height OH (40_command_control.md R117), 0 as for the width (log 12). -/
def outHeight (op : Op) (l : Params) : Nat := l.height.toNat - 2 * border op l

/-! ### Ranges -/

/-- The bytes of n elements at a base address (20_memory.md R61). -/
def elementRange (base n : Nat) : AddrRange := ⟨base, base + 4 * n⟩

def AddrRange.contains (r : AddrRange) (a : Nat) : Bool := decide (r.lo ≤ a) && decide (a < r.hi)

/-- `overlap([a,b), [c,d))` of 40_command_control.md R121. -/
def AddrRange.overlaps (r q : AddrRange) : Bool := decide (r.lo < q.hi) && decide (q.lo < r.hi)

def sourceRange (l : Params) : AddrRange := elementRange l.srcAddr.toNat l.srcLen.toNat

def kernelRange (l : Params) : AddrRange := elementRange l.kerAddr.toNat l.klen.toNat

def dstRange (op : Op) (l : Params) : AddrRange := elementRange l.dstAddr.toNat (outWidth op l * outHeight op l)

def visRange (l : Params) : AddrRange := elementRange l.visAddr.toNat (l.width.toNat * l.height.toNat)

/-- The ranges a command only reads (70_reset_and_hazards.md R226). -/
def inputRanges (op : Op) (l : Params) : List AddrRange :=
  match op with
  | .conv => [sourceRange l, kernelRange l]
  | .median | .min | .max | .midpoint | .dct | .idct | .lowpass | .highpass | .normalize => [sourceRange l]

/-- The ranges a command writes (70_reset_and_hazards.md R227). -/
def outputRanges (op : Op) (vis : Bool) (l : Params) : List AddrRange :=
  dstRange op l :: if vis then [visRange l] else []

/-! ### Accesses -/

/-- The addresses of n elements. -/
def elementAddrs (base n : Nat) : List Nat := (List.range n).map fun i => base + 4 * i

/-- The source words the pseudocode reads. Windows of an even side never reach the last column and row (41_fir.md R137), so those are
not read (log 13); every other command reads the whole image. -/
def sourceReads (op : Op) (l : Params) : List Nat :=
  grid (outWidth op l + windowSide op l - 1) (outHeight op l + windowSide op l - 1)
    fun x y => l.srcAddr.toNat + 4 * (y * l.width.toNat + x)

/-- The kernel words read: all of them, for CONV (41_fir.md R133). -/
def kernelReads (op : Op) (l : Params) : List Nat :=
  match op with
  | .conv => elementAddrs l.kerAddr.toNat l.klen.toNat
  | .median | .min | .max | .midpoint | .dct | .idct | .lowpass | .highpass | .normalize => []

/-- The words written: the destination, and with VIS = 1 the visual buffer (20_memory.md R67). -/
def outputWrites (op : Op) (vis : Bool) (l : Params) : List Nat :=
  elementAddrs l.dstAddr.toNat (outWidth op l * outHeight op l) ++
    if vis then elementAddrs l.visAddr.toNat (l.width.toNat * l.height.toNat) else []

/-- `memAdmits(a)` (00_scope.md R6; logs 20 and 21). -/
def admits (c : Config) (a : Nat) : Bool := !c.denied.any fun r => AddrRange.contains r a

/-- No access of the command ends in a bus error (20_memory.md R83). -/
def allAdmitted (c : Config) (op : Op) (vis : Bool) (l : Params) : Bool :=
  (sourceReads op l).all (admits c) && (kernelReads op l).all (admits c) && (outputWrites op vis l).all (admits c)

/-! ### Validation -/

/-- The E_DIM check (40_command_control.md R118). -/
def dimBad (c : Config) (l : Params) : Bool :=
  l.width.toNat == 0 || l.height.toNat == 0 || decide (c.maxW.toNat < l.width.toNat) || decide (c.maxH.toNat < l.height.toNat) ||
    l.srcLen.toNat != l.width.toNat * l.height.toNat

/-- The border leaves no output (41_fir.md R130, 42_order_stat.md R145). -/
def emptyRegion (op : Op) (l : Params) : Bool :=
  decide (l.width.toNat ≤ 2 * border op l) || decide (l.height.toNat ≤ 2 * border op l)

/-- The E_KERNEL check (40_command_control.md R119). -/
def kernelBad (c : Config) (op : Op) (l : Params) : Bool :=
  match op with
  | .conv =>
    l.klen.toNat == 0 || isqrt l.klen.toNat * isqrt l.klen.toNat != l.klen.toNat ||
      decide (c.kmaxSide.toNat < isqrt l.klen.toNat) || emptyRegion op l
  | .median | .min | .max | .midpoint => decide (c.dmax.toNat < l.dist.toNat) || emptyRegion op l
  | .dct | .idct | .lowpass | .highpass | .normalize => false

/-- The E_ALIGN check (40_command_control.md R120). -/
def alignBad (op : Op) (vis : Bool) (l : Params) : Bool :=
  l.srcAddr.toNat % 4 != 0 || l.dstAddr.toNat % 4 != 0 || (op == .conv && l.kerAddr.toNat % 4 != 0) ||
    (vis && l.visAddr.toNat % 4 != 0)

/-- The E_ADDR check (40_command_control.md R121). -/
def addrBad (op : Op) (vis : Bool) (l : Params) : Bool :=
  (inputRanges op l ++ outputRanges op vis l).any (fun r => decide (2 ^ 32 < r.hi)) ||
    (inputRanges op l).any (fun r => AddrRange.overlaps (dstRange op l) r) ||
    (vis && (AddrRange.overlaps (visRange l) (sourceRange l) || AddrRange.overlaps (visRange l) (dstRange op l)))

/-- The checks of 40_command_control.md R123 after the one for E_ILLEGAL, in their order (60_exceptions.md R200). -/
def validateOperands (c : Config) (op : Op) (vis : Bool) (l : Params) : Option CmdError :=
  if dimBad c l then some .dim
  else if kernelBad c op l then some .kernel
  else if alignBad op vis l then some .align
  else if addrBad op vis l then some .addr
  else none

/-- `validate` of 40_command_control.md R123; none stands for its 0. -/
def validate (c : Config) (l : Params) : Option CmdError :=
  match latchedCommand l with
  | none => some .illegal
  | some (op, vis) => validateOperands c op vis l

end Sys2Proof.Machine
end

