-- ==== Sys2Proof/Machine/Ops.lean ====
section
/-! DEFINITION. The shared operations: memory, the register window, the free words, START, the two completions, reset and abort, the EXEC
step every command shares, and the host's memory accesses. -/

namespace Sys2Proof.Machine

/-! ### Memory -/

/-- What an address that is not listed reads as. DESIGN CHOICE (log 5): 0. -/
def memFill : Byte := 0

/-- One byte of memory (20_memory.md R60). -/
def Memory.read : Memory → Nat → Byte
  | [], _ => memFill
  | (c, d) :: t, a => if c = a then d else Memory.read t a

/-- List a byte at its address, keeping the canonical form. -/
def Memory.insertByte : Memory → Nat → Byte → Memory
  | [], a, b => if b = memFill then [] else [(a, b)]
  | (c, d) :: t, a, b =>
    if a < c then (if b = memFill then (c, d) :: t else (a, b) :: (c, d) :: t)
    else if a = c then (if b = memFill then t else (a, b) :: t)
    else (c, d) :: Memory.insertByte t a b

/-- Write one byte. From address 2^32 on there is no byte (20_memory.md R60); only the abort of a command whose range ends there asks for
one (log 11). -/
def Memory.write (m : Memory) (a : Nat) (b : Byte) : Memory := if a < 2 ^ 32 then m.insertByte a b else m

/-- The canonical form: addresses strictly rising and below 2^32, no entry equal to what an unlisted address reads as. -/
def Memory.wf : Memory → Bool
  | [] => true
  | (a, b) :: t => decide (a < 2 ^ 32) && b != memFill && t.all (fun c => decide (a < c.1)) && Memory.wf t

/-- `MemRead(a, 4)` where memory admits it: little-endian (00_scope.md R10). -/
def Memory.readWord (m : Memory) (a : Nat) : Word :=
  wordOfBytes (m.read a) (m.read (a + 1)) (m.read (a + 2)) (m.read (a + 3))

/-- Bytes at consecutive addresses. -/
def Memory.writeBytes : Memory → Nat → List Byte → Memory
  | m, _, [] => m
  | m, a, b :: bs => Memory.writeBytes (m.write a b) (a + 1) bs

/-- Bytes from consecutive addresses. -/
def Memory.readBytes (m : Memory) (a n : Nat) : List Byte := (List.range n).map fun i => m.read (a + i)

/-- `MemWrite(a, 4, v)` where memory admits it (00_scope.md R10). -/
def Memory.writeWord (m : Memory) (a : Nat) (v : Word) : Memory := m.writeBytes a (wordBytes v)

/-- Words at consecutive element addresses (20_memory.md R61). -/
def Memory.writeWords : Memory → Nat → List Word → Memory
  | m, _, [] => m
  | m, a, w :: ws => Memory.writeWords (m.writeWord a w) (a + 4) ws

/-- `PIX(base, W, x, y)` (00_scope.md R23). -/
def pix (m : Memory) (base w x y : Nat) : Word := m.readWord (base + 4 * (y * w + x))

/-- The source pixel at column x, row y of a latched command. -/
def srcPix (m : Memory) (l : Params) (x y : Nat) : Word := pix m l.srcAddr.toNat l.width.toNat x y

/-! ### Registers -/

/-- ID (10_state.md R37). -/
def idWord : Word := 0x4B41594E

/-- VERSION (10_state.md R37). -/
def versionWord : Word := 0x00010007

/-- CAPS (10_state.md R38). -/
def capsWord (c : Config) : Word := 0#8 ++ c.numWorkers ++ c.dmax ++ c.kmaxSide

/-- CAPS_DIM (10_state.md R38). -/
def capsDimWord (c : Config) : Word := c.maxH ++ c.maxW

def Params.get (p : Params) : ParamReg → Word
  | .cmd => p.cmd
  | .width => p.width
  | .height => p.height
  | .srcAddr => p.srcAddr
  | .srcLen => p.srcLen
  | .dstAddr => p.dstAddr
  | .visAddr => p.visAddr
  | .kerAddr => p.kerAddr
  | .klen => p.klen
  | .dist => p.dist
  | .radius => p.radius

def Params.set (p : Params) (r : ParamReg) (v : Word) : Params :=
  match r with
  | .cmd => { p with cmd := v }
  | .width => { p with width := v }
  | .height => { p with height := v }
  | .srcAddr => { p with srcAddr := v }
  | .srcLen => { p with srcLen := v }
  | .dstAddr => { p with dstAddr := v }
  | .visAddr => { p with visAddr := v }
  | .kerAddr => { p with kerAddr := v }
  | .klen => { p with klen := v }
  | .dist => { p with dist := v }
  | .radius => { p with radius := v }

/-- The register map (10_state.md R36); none is a reserved offset (R49). -/
def regAt : Nat → Option Reg
  | 0x000 => some .id
  | 0x004 => some .version
  | 0x008 => some .caps
  | 0x00C => some .capsDim
  | 0x010 => some .ctrl
  | 0x014 => some .status
  | 0x018 => some (.param .cmd)
  | 0x01C => some (.param .width)
  | 0x020 => some (.param .height)
  | 0x024 => some (.param .srcAddr)
  | 0x028 => some (.param .srcLen)
  | 0x02C => some (.param .dstAddr)
  | 0x030 => some (.param .visAddr)
  | 0x034 => some (.param .kerAddr)
  | 0x038 => some (.param .klen)
  | 0x03C => some (.param .dist)
  | 0x040 => some (.param .radius)
  | 0x044 => some .outW
  | 0x048 => some .outH
  | _ => none

/-- What a read of a register returns (40_command_control.md R114). -/
def readReg (s : State) : Reg → Word
  | .id => idWord
  | .version => versionWord
  | .caps => capsWord s.cfg
  | .capsDim => capsDimWord s.cfg
  | .ctrl => ctrlWord s
  | .status => statusWord s
  | .param p => s.params.get p
  | .outW => s.outW
  | .outH => s.outH

/-- What a read at an offset of the window returns: reserved offsets read 0 (10_state.md R49). -/
def readOffset (s : State) (off : Nat) : Word :=
  match regAt off with
  | some r => readReg s r
  | none => 0

/-- A write to a parameter register: lost while BUSY (40_command_control.md R105, 10_state.md R50). -/
def writeParam (r : ParamReg) (v : Word) (s : State) : State :=
  match s.seq with
  | .busy => s
  | .idle => { s with params := s.params.set r v }

/-! ### Free values -/

/-- n free words, from draw number k on (20_memory.md R83). -/
def freeWords (k n : Nat) : List Word := (List.range n).map fun i => Config.freeWord (k + i)

/-- n free bytes, from draw number k on. -/
def freeBytes (k n : Nat) : List Byte := (List.range n).map fun i => (Config.freeWord (k + i)).extractLsb' 0 8

/-- How many words of the visual range a command writes. -/
def visCount (vis : Bool) (l : Params) : Nat := if vis then l.width.toNat * l.height.toNat else 0

/-- Every word of the destination range, and of the visual range if VIS = 1, becomes a free word (20_memory.md R83,
70_reset_and_hazards.md R222). -/
def scrambleOutputs (op : Op) (vis : Bool) (s : State) : State :=
  let n := outWidth op s.latch * outHeight op s.latch
  let v := visCount vis s.latch
  { s with
    mem := (s.mem.writeWords s.latch.dstAddr.toNat (freeWords s.draws n)).writeWords s.latch.visAddr.toNat
      (freeWords (s.draws + n) v)
    draws := s.draws + n + v }

/-! ### The life of a command -/

/-- `start()`: ignored while BUSY (40_command_control.md R108); otherwise the flags are cleared, the parameters latched and the sequencer
goes BUSY (R107, R109). -/
def startCommand (s : State) : State :=
  match s.seq with
  | .busy => s
  | .idle => { clearAllFlags s with latch := s.params, seq := .busy, torn := false }

/-- `complete_ok` (40_command_control.md R112). -/
def completeOk (ow oh : Nat) (degen : Bool) (s : State) : State :=
  { s with
    outW := BitVec.ofNat 32 ow
    outH := BitVec.ofNat 32 oh
    degen := degen
    done := true
    seq := .idle
    torn := false }

/-- `complete_error` (40_command_control.md R113). -/
def completeError (e : CmdError) (s : State) : State :=
  { s with
    outW := 0
    outH := 0
    degen := false
    done := false
    errcode := e.code
    err := true
    seq := .idle
    torn := false }

/-- What the computation of a command returns (40_command_control.md R110): the destination words, the visual words, degenerate or not. -/
structure Result where
  dst : List Word
  vis : List Word
  degen : Bool
deriving DecidableEq, Repr

/-- Write a result and complete (40_command_control.md R110, R112). -/
def storeResult (op : Op) (r : Result) (s : State) : State :=
  completeOk (outWidth op s.latch) (outHeight op s.latch) r.degen
    { s with mem := (s.mem.writeWords s.latch.dstAddr.toNat r.dst).writeWords s.latch.visAddr.toNat r.vis }

/-- The command computes a normalisation, so it may report DEGEN (44_spectral_mask.md R184, R187). -/
def normalises (op : Op) (vis : Bool) : Bool := vis || op == .normalize

/-- Complete a command whose ranges another agent touched: its results are unspecified (70_reset_and_hazards.md R230), so the words and
DEGEN, where the command has one, are free (log 10). -/
def storeTorn (op : Op) (vis : Bool) (s : State) : State :=
  let s' := scrambleOutputs op vis s
  completeOk (outWidth op s.latch) (outHeight op s.latch) (normalises op vis && (Config.freeWord s'.draws).getLsbD 0)
    { s' with draws := s'.draws + 1 }

/-- EXEC of a legal command word (40_command_control.md R110): validate, compute, write, complete, in one step (10_state.md R33; log 18). While
IDLE no command is running and EXEC is not enabled: nothing happens (log 17). -/
def execCommand (op : Op) (vis : Bool) (compute : Config → Params → Memory → Result) (s : State) : State :=
  match s.seq with
  | .idle => s
  | .busy =>
    match validateOperands s.cfg op vis s.latch with
    | some e => completeError e s
    | none =>
      if allAdmitted s.cfg op vis s.latch then
        if s.torn then storeTorn op vis s
        else storeResult op (compute s.cfg s.latch s.mem) s
      else completeError .bus (scrambleOutputs op vis s)

/-- Reset aborts a running command: every word of its ranges is then free, whether or not it would have passed validation
(70_reset_and_hazards.md R222). An illegal word has no ranges and "changes no memory" (30_encoding.md R93; log 11). -/
def abortCommand (s : State) : State :=
  match s.seq with
  | .idle => s
  | .busy =>
    match latchedCommand s.latch with
    | none => s
    | some (op, vis) => scrambleOutputs op vis s

/-- Hardware or soft reset (70_reset_and_hazards.md R220, R221): every register takes its value of 10_state.md R54. Memory but for the
abort, the marks, the parameters and what the host holds are not the block's, and stay (log 22). -/
def resetBlock (s : State) : State :=
  { abortCommand s with
    params := Params.zero
    latch := Params.zero
    seq := .idle
    irqEn := false
    done := false
    err := false
    degen := false
    errcode := 0
    outW := 0
    outH := 0
    torn := false }

/-! ### Host accesses -/

/-- Some byte of the access lies in one of the ranges. -/
def touches (addr len : Nat) (rs : List AddrRange) : Bool :=
  rs.any fun r => (List.range len).any fun i => AddrRange.contains r (addr + i)

/-- The ranges of the running command that no other agent may write (70_reset_and_hazards.md R226, R227; log 12). -/
def protectedFromWrites (s : State) : List AddrRange :=
  match s.seq, latchedCommand s.latch with
  | .busy, some (op, vis) => inputRanges op s.latch ++ outputRanges op vis s.latch
  | _, _ => []

/-- The ranges of the running command that no other agent may read (70_reset_and_hazards.md R227). -/
def protectedFromReads (s : State) : List AddrRange :=
  match s.seq, latchedCommand s.latch with
  | .busy, some (op, vis) => outputRanges op vis s.latch
  | _, _ => []

/-- The HAZARD mark; the running command's results are then unspecified (70_reset_and_hazards.md R230). -/
def markHazard (s : State) : State := { s with hazard := true, torn := true }

/-- The REFUSED mark (30_encoding.md R86). -/
def markRefused (s : State) : State := { s with refused := true }

/-- Some byte of the access lies in the register window (log 24). -/
def hitsWindow (c : Config) (addr len : Nat) : Bool :=
  decide (0 < len) && decide (addr < c.engineBase.toNat + 0x100) && decide (c.engineBase.toNat < addr + len)

/-- The access is a transaction: 32 bits, aligned (30_encoding.md R85). -/
def isTransaction (addr len : Nat) : Bool := len == 4 && addr % 4 == 0

/-- Free bytes for the host: nothing is said of what the access returns. -/
def returnFree (len : Nat) (s : State) : State :=
  { s with hostData := freeBytes s.draws len, draws := s.draws + len }

/-- A host read of memory: a hazard inside the running command's outputs (70_reset_and_hazards.md R227), where "a read could see an old
or a new word"; a fault beyond the address space (log 16). -/
def hostMemRead (addr len : Nat) (s : State) : Host.Outcome State Fault Refusal :=
  if 2 ^ 32 < addr + len then .fault .beyondAddressSpace
  else if touches addr len (protectedFromReads s) then .next (returnFree len (markHazard s))
  else .next { s with hostData := s.mem.readBytes addr len }

/-- A host write of memory: a hazard inside the running command's inputs or outputs (70_reset_and_hazards.md R226, R227). -/
def hostMemWrite (addr : Nat) (data : List Byte) (s : State) : Host.Outcome State Fault Refusal :=
  if 2 ^ 32 < addr + data.length then .fault .beyondAddressSpace
  else
    let s' := if touches addr data.length (protectedFromWrites s) then markHazard s else s
    .next { s' with mem := s'.mem.writeBytes addr data }

/-- A host bus read. In the window: a transaction returns the register (40_command_control.md R114) and anything else is refused
(30_encoding.md R86). -/
def hostRead (addr : Word) (len : Nat) (s : State) : Host.Outcome State Fault Refusal :=
  if hitsWindow s.cfg addr.toNat len then
    if isTransaction addr.toNat len then
      .next { s with hostData := wordBytes (readOffset s (addr.toNat - s.cfg.engineBase.toNat)) }
    else .next (returnFree len (markRefused s))
  else hostMemRead addr.toNat len s

/-- The word a host read returned. -/
def hostWord (s : State) : Word :=
  match s.hostData with
  | [b0, b1, b2, b3] => wordOfBytes b0 b1 b2 b3
  | _ => 0

end Sys2Proof.Machine
end

