-- ==== Sys2Proof/Machine/Control.lean ====
section
/-! DEFINITION. The control actions (30_encoding.md R95): START, SETIRQ, SRST, CLEAR. -/

namespace Sys2Proof.Machine

/-- START: IRQ_EN is loaded even where the start is ignored (40_command_control.md R106, R107, R108). -/
def execStart (irqEn : Bool) (s : State) : Host.Outcome State Fault Refusal :=
  .next (startCommand { s with irqEn := irqEn })

/-- SRST (70_reset_and_hazards.md R221). -/
def execSrst (s : State) : Host.Outcome State Fault Refusal := .next (resetBlock s)

/-- SETIRQ (40_command_control.md R106). -/
def execSetIrq (irqEn : Bool) (s : State) : Host.Outcome State Fault Refusal := .next { s with irqEn := irqEn }

/-- CLEAR (40_command_control.md R115). -/
def execClear (done err degen : Bool) (s : State) : Host.Outcome State Fault Refusal :=
  .next (clearFlags done err degen s)

end Sys2Proof.Machine
end

