-- ==== Sys2Proof/Machine/SpectralMask.lean ====
section
/-! DEFINITION. Spectral masking and normalisation (44_spectral_mask.md), with the visual output the DCT shares. -/

namespace Sys2Proof.Machine

/-- `lo` and `hi` after the scan in index order: NaN never enters either (44_spectral_mask.md R185). -/
def normBounds (c : List F32) : F32 × F32 :=
  c.foldl (fun b x => (if flt x b.1 then x else b.1, if fgt x b.2 then x else b.2)) (f32Inf false, f32Inf true)

/-- One rescaled element (44_spectral_mask.md R185). -/
def normElement (lo rng x : F32) : Word := gray (satU8 (fmul (fdiv (fsub x lo) rng) (f32OfNat 255)))

/-- `norm`: the displayable words and the degenerate flag (44_spectral_mask.md R185, R186). -/
def normWords (c : List F32) : List Word × Bool :=
  let b := normBounds c
  if fgt b.2 b.1 then (c.map (normElement b.1 (fsub b.2 b.1)), false)
  else (c.map fun _ => 0, true)

/-- The result of a spectral command: with VIS = 1 the visual output is `norm` (here `normWords`) of the destination words (44_spectral_mask.md R187). -/
def spectralResult (vis : Bool) (dst : List Word) : Result :=
  if vis then ⟨dst, (normWords dst).1, (normWords dst).2⟩ else ⟨dst, [], false⟩

/-- `outside(u, v)`: the exact integer comparison (44_spectral_mask.md R180). -/
def outside (l : Params) (u v : Nat) : Bool := decide (l.radius.toNat * l.radius.toNat < u * u + v * v)

/-- LOWPASS zeroes outside the radius and copies the bits elsewhere (44_spectral_mask.md R181). -/
def lowpassResult (vis : Bool) (_ : Config) (l : Params) (m : Memory) : Result :=
  spectralResult vis (grid l.width.toNat l.height.toNat fun u v => if outside l u v then 0 else srcPix m l u v)

/-- HIGHPASS is the complement (44_spectral_mask.md R182). -/
def highpassResult (vis : Bool) (_ : Config) (l : Params) (m : Memory) : Result :=
  spectralResult vis (grid l.width.toNat l.height.toNat fun u v => if outside l u v then srcPix m l u v else 0)

/-- The coefficients in element order (44_spectral_mask.md R184). -/
def coefficients (l : Params) (m : Memory) : List F32 :=
  (List.range (l.width.toNat * l.height.toNat)).map fun i => m.readWord (l.srcAddr.toNat + 4 * i)

def normalizeResult (_ : Config) (l : Params) (m : Memory) : Result :=
  ⟨(normWords (coefficients l m)).1, [], (normWords (coefficients l m)).2⟩

/-- LOWPASS (44_spectral_mask.md R181). -/
def execLowpass (s : State) : Host.Outcome State Fault Refusal :=
  .next (execCommand .lowpass false (lowpassResult false) s)

/-- LOWPASS.VIS (44_spectral_mask.md R181, R187). -/
def execLowpassVis (s : State) : Host.Outcome State Fault Refusal :=
  .next (execCommand .lowpass true (lowpassResult true) s)

/-- HIGHPASS (44_spectral_mask.md R182). -/
def execHighpass (s : State) : Host.Outcome State Fault Refusal :=
  .next (execCommand .highpass false (highpassResult false) s)

/-- HIGHPASS.VIS (44_spectral_mask.md R182, R187). -/
def execHighpassVis (s : State) : Host.Outcome State Fault Refusal :=
  .next (execCommand .highpass true (highpassResult true) s)

/-- NORMALIZE (44_spectral_mask.md R184). -/
def execNormalize (s : State) : Host.Outcome State Fault Refusal :=
  .next (execCommand .normalize false normalizeResult s)

end Sys2Proof.Machine
end

