-- ==== Sys2Proof/Machine/Dct.lean ====
section
/-! DEFINITION. The 2D DCT core (43_dct.md): the forward and inverse transforms and the worker fan-out. -/

namespace Sys2Proof.Machine

/-! ### Workers -/

/-- The lines of worker w of p in a pass of r lines (43_dct.md R171). -/
def workerLines (p r w : Nat) : List Nat :=
  (List.range ((w + 1) * r / p - w * r / p)).map fun i => w * r / p + i

/-- One pass: each worker computes its own lines, and the lines are put together at the join (43_dct.md R172, R174; log 23). -/
def fanOut {α : Type} (p r : Nat) (line : Nat → α) : List α :=
  (List.range p).flatMap fun w => (workerLines p r w).map line

/-! ### The transforms -/

/-- The table `TW_N` (43_dct.md R161). -/
def twiddleTable (n : Nat) : List F32 := (List.range (4 * n)).map (twiddle n)

/-- `C_N(k, n)` looked up in the table (43_dct.md R161, R162). -/
def cosineAt (table : List F32) (size k n : Nat) : F32 := table.getD (((2 * n + 1) * k) % (4 * size)) 0

/-- Element x of line y of an intermediate result. -/
def lineAt (rows : List (List F32)) (y x : Nat) : F32 := (rows.getD y []).getD x 0

/-- The sample of a pixel: the mean of its lanes (43_dct.md R163). -/
def dctSample (w : Word) : F32 :=
  fdiv (f32OfNat ((lane w 0).toNat + (lane w 1).toNat + (lane w 2).toNat)) (f32OfNat 3)

/-- The spatial samples `fs[y][x]` (43_dct.md R164). -/
def dctSamples (l : Params) (m : Memory) : List (List F32) :=
  (List.range l.height.toNat).map fun y => (List.range l.width.toNat).map fun x => dctSample (srcPix m l x y)

/-- Pass 1 of DCT, `T[y][u]` (43_dct.md R164). -/
def dctRows (workers w h : Nat) (fs : List (List F32)) : List (List F32) :=
  let tw := twiddleTable w
  fanOut workers h fun y => (List.range w).map fun u =>
    fmul (scale w u) (fsum ((List.range w).map fun x => fmul (lineAt fs y x) (cosineAt tw w u x)))

/-- Pass 2 of DCT, `F[v][u]` (43_dct.md R164, R165). -/
def dctCols (workers w h : Nat) (t : List (List F32)) : List (List F32) :=
  let tw := twiddleTable h
  fanOut workers h fun v => (List.range w).map fun u =>
    fmul (scale h v) (fsum ((List.range h).map fun y => fmul (lineAt t y u) (cosineAt tw h v y)))

/-- The spectrum in element order: coefficient (u, v) at element `v*W + u` (43_dct.md R165). -/
def spectrum (c : Config) (l : Params) (m : Memory) : List Word :=
  let p := c.numWorkers.toNat
  let w := l.width.toNat
  let h := l.height.toNat
  (dctCols p w h (dctRows p w h (dctSamples l m))).flatten

def dctResult (vis : Bool) (c : Config) (l : Params) (m : Memory) : Result := spectralResult vis (spectrum c l m)

/-- The input coefficients `Fi[v][u]` (43_dct.md R166). -/
def idctInput (l : Params) (m : Memory) : List (List F32) :=
  (List.range l.height.toNat).map fun v => (List.range l.width.toNat).map fun u => srcPix m l u v

/-- Pass 1 of IDCT, `S[v][x]` (43_dct.md R166). -/
def idctRows (workers w h : Nat) (fi : List (List F32)) : List (List F32) :=
  let tw := twiddleTable w
  fanOut workers h fun v => (List.range w).map fun x =>
    fsum ((List.range w).map fun u => fmul (fmul (scale w u) (lineAt fi v u)) (cosineAt tw w u x))

/-- Pass 2 of IDCT, the samples before the output conversion (43_dct.md R166). -/
def idctCols (workers w h : Nat) (s : List (List F32)) : List (List F32) :=
  let tw := twiddleTable h
  fanOut workers h fun y => (List.range w).map fun x =>
    fsum ((List.range h).map fun v => fmul (fmul (scale h v) (lineAt s v x)) (cosineAt tw h v y))

/-- The output pixels: each sample, truncated and clamped, in all three lanes (43_dct.md R167). -/
def idctResult (c : Config) (l : Params) (m : Memory) : Result :=
  let p := c.numWorkers.toNat
  let w := l.width.toNat
  let h := l.height.toNat
  ⟨((idctCols p w h (idctRows p w h (idctInput l m))).flatten).map fun g => gray (satU8 g), [], false⟩

/-- DCT (43_dct.md R164). -/
def execDct (s : State) : Host.Outcome State Fault Refusal := .next (execCommand .dct false (dctResult false) s)

/-- DCT.VIS (43_dct.md R164, 44_spectral_mask.md R187). -/
def execDctVis (s : State) : Host.Outcome State Fault Refusal := .next (execCommand .dct true (dctResult true) s)

/-- IDCT (43_dct.md R166). -/
def execIdct (s : State) : Host.Outcome State Fault Refusal := .next (execCommand .idct false idctResult s)

end Sys2Proof.Machine
end

