-- ==== Sys2Proof/Machine/Fir.lean ====
section
/-! DEFINITION. The 2D FIR filter, CONV (41_fir.md). -/

namespace Sys2Proof.Machine

/-- Kernel weight i (41_fir.md R131). -/
def kernelWeight (l : Params) (m : Memory) (i : Nat) : F32 := m.readWord (l.kerAddr.toNat + 4 * i)

/-- The products of one lane's sum, in row-major window order (41_fir.md R135); the window is not flipped (R131). -/
def firProducts (l : Params) (m : Memory) (ox oy c : Nat) : List F32 :=
  let side := windowSide .conv l
  let half := border .conv l
  let x := ox + half
  let y := oy + half
  (List.range side).flatMap fun ky => (List.range side).map fun kx =>
    fmul (kernelWeight l m (ky * side + kx)) (f32OfNat (lane (srcPix m l (x - half + kx) (y - half + ky)) c).toNat)

/-- One lane of an output pixel (41_fir.md R134, R136). -/
def firLane (l : Params) (m : Memory) (ox oy c : Nat) : Byte := satU8 (fsum (firProducts l m ox oy c))

/-- One output pixel (41_fir.md R133). -/
def firPixel (l : Params) (m : Memory) (ox oy : Nat) : Word :=
  pack (firLane l m ox oy 0) (firLane l m ox oy 1) (firLane l m ox oy 2)

def firResult (_ : Config) (l : Params) (m : Memory) : Result :=
  ⟨grid (outWidth .conv l) (outHeight .conv l) (firPixel l m), [], false⟩

/-- CONV (41_fir.md R133). -/
def execConv (s : State) : Host.Outcome State Fault Refusal := .next (execCommand .conv false firResult s)

end Sys2Proof.Machine
end

