-- ==== Sys2Proof/Machine/OrderStat.lean ====
section
/-! DEFINITION. The order-statistic window processor (42_order_stat.md). -/

namespace Sys2Proof.Machine

/-- The keys of the window of output element (ox, oy) (42_order_stat.md R146, R149). -/
def windowKeys (op : Op) (l : Params) (m : Memory) (ox oy : Nat) : List Nat :=
  let side := windowSide op l
  let d := border op l
  let x := ox + d
  let y := oy + d
  (List.range side).flatMap fun ky => (List.range side).map fun kx => key (srcPix m l (x - d + kx) (y - d + ky))

/-- The keys in non-decreasing order (42_order_stat.md R147). -/
def sortKeys (ks : List Nat) : List Nat := ks.insertionSort (· ≤ ·)

/-- The shared loop (42_order_stat.md R149); `select` takes the sorted keys. -/
def orderResult (op : Op) (select : List Nat → Word) (_ : Config) (l : Params) (m : Memory) : Result :=
  ⟨grid (outWidth op l) (outHeight op l) fun ox oy => select (sortKeys (windowKeys op l m ox oy)), [], false⟩

/-- A key as a pixel word. -/
def keyWord (k : Nat) : Word := BitVec.ofNat 32 k

/-- `k[area / 2]` (42_order_stat.md R150). -/
def selectMedian (ks : List Nat) : Word := keyWord (ks.getD (ks.length / 2) 0)

/-- `k[0]` (42_order_stat.md R151). -/
def selectMin (ks : List Nat) : Word := keyWord (ks.getD 0 0)

/-- `k[area - 1]` (42_order_stat.md R152). -/
def selectMax (ks : List Nat) : Word := keyWord (ks.getD (ks.length - 1) 0)

/-- The average of two channel values, a half rounded upward (42_order_stat.md R153). The sum is exact (00_scope.md R18). -/
def midByte (a b : Byte) : Byte := BitVec.ofNat 8 ((a.toNat + b.toNat + 1) / 2)

/-- The lane averages of the first and the last key (42_order_stat.md R153). -/
def selectMidpoint (ks : List Nat) : Word :=
  let lo := keyWord (ks.getD 0 0)
  let hi := keyWord (ks.getD (ks.length - 1) 0)
  pack (midByte (lane lo 0) (lane hi 0)) (midByte (lane lo 1) (lane hi 1)) (midByte (lane lo 2) (lane hi 2))

/-- MEDIAN (42_order_stat.md R150). -/
def execMedian (s : State) : Host.Outcome State Fault Refusal :=
  .next (execCommand .median false (orderResult .median selectMedian) s)

/-- MIN (42_order_stat.md R151). -/
def execMin (s : State) : Host.Outcome State Fault Refusal :=
  .next (execCommand .min false (orderResult .min selectMin) s)

/-- MAX (42_order_stat.md R152). -/
def execMax (s : State) : Host.Outcome State Fault Refusal :=
  .next (execCommand .max false (orderResult .max selectMax) s)

/-- MIDPOINT (42_order_stat.md R153). -/
def execMidpoint (s : State) : Host.Outcome State Fault Refusal :=
  .next (execCommand .midpoint false (orderResult .midpoint selectMidpoint) s)

end Sys2Proof.Machine
end

