-- ==== Sys2Proof/Machine/Dispatch.lean ====
section
/-! DEFINITION. One arm for each instruction. -/

namespace Sys2Proof.Machine

def exec (i : Instr) (s : State) : Host.Outcome State Fault Refusal :=
  match i with
  | .conv => Sys2Proof.Machine.execConv s
  | .median => Sys2Proof.Machine.execMedian s
  | .min => Sys2Proof.Machine.execMin s
  | .max => Sys2Proof.Machine.execMax s
  | .midpoint => Sys2Proof.Machine.execMidpoint s
  | .dct => Sys2Proof.Machine.execDct s
  | .idct => Sys2Proof.Machine.execIdct s
  | .lowpass => Sys2Proof.Machine.execLowpass s
  | .highpass => Sys2Proof.Machine.execHighpass s
  | .normalize => Sys2Proof.Machine.execNormalize s
  | .dctVis => Sys2Proof.Machine.execDctVis s
  | .lowpassVis => Sys2Proof.Machine.execLowpassVis s
  | .highpassVis => Sys2Proof.Machine.execHighpassVis s
  | .start irqEn => Sys2Proof.Machine.execStart irqEn s
  | .srst => Sys2Proof.Machine.execSrst s
  | .setIrq irqEn => Sys2Proof.Machine.execSetIrq irqEn s
  | .clear done err degen => Sys2Proof.Machine.execClear done err degen s

end Sys2Proof.Machine
end

