-- ==== Sys2Proof/Machine/Window.lean ====
section
/-! DEFINITION. The turns: EXEC of the latched command word, the host's bus accesses and waits, and the reset input. -/

namespace Sys2Proof.Machine

/-- The engine's turn (10_state.md R33, 40_command_control.md R110): while BUSY it decodes the latched command word and runs it; an
illegal word ends with E_ILLEGAL (30_encoding.md R90). While IDLE it has no step. -/
def engineTurn (s : State) : Host.Outcome State Fault Refusal :=
  match s.seq with
  | .idle => .next s
  | .busy =>
    match decodeCommand s.latch.cmd with
    | .ok i => exec i s
    | .error _ => .next (completeError .illegal s)

/-- A write transaction (40_command_control.md R105, R106, R115, R116): CTRL and STATUS writes are control actions, a parameter write is
stored, and the rest has no effect. -/
def writeOffset (off : Nat) (v : Word) (s : State) : Host.Outcome State Fault Refusal :=
  match regAt off with
  | some .ctrl => exec (decodeCtrl v) s
  | some .status => exec (decodeStatus v) s
  | some (.param r) => .next (writeParam r v s)
  | some .id | some .version | some .caps | some .capsDim | some .outW | some .outH => .next s
  | none => .next s

/-- A host bus write. In the window: a transaction, or refused (30_encoding.md R85, R86). -/
def hostWrite (addr : Word) (data : List Byte) (s : State) : Host.Outcome State Fault Refusal :=
  if hitsWindow s.cfg addr.toNat data.length then
    match isTransaction addr.toNat data.length, data with
    | true, [b0, b1, b2, b3] => writeOffset (addr.toNat - s.cfg.engineBase.toNat) (wordOfBytes b0 b1 b2 b3) s
    | _, _ => .next (markRefused s)
  else hostMemWrite addr.toNat data s

/-- A host loop that has not ended gives the engine a turn and then goes on (30_encoding.md R98, 70_reset_and_hazards.md R234, log 19). -/
def again (t : Turn) (s : State) : State := { s with agenda := .engine :: t :: s.agenda }

/-- One read of a poll: it ends after the first read whose data satisfies the condition (30_encoding.md R98). -/
def pollTurn (addr mask value : Word) (s : State) : Host.Outcome State Fault Refusal :=
  match hostRead addr 4 s with
  | .next t => .next (if hostWord t &&& mask = value then t else again (.poll addr mask value) t)
  | .fault f => .fault f
  | .refused r => .refused r

/-- One turn of the agenda. -/
def takeTurn (t : Turn) (s : State) : Host.Outcome State Fault Refusal :=
  match t with
  | .engine => engineTurn s
  | .read addr len => hostRead addr len s
  | .write addr data => hostWrite addr data s
  | .poll addr mask value => pollTurn addr mask value s
  | .waitIrq => .next (if irq s then s else again .waitIrq s)
  | .reset => .next (resetBlock s)

/-- The offset of CTRL and of STATUS in the window (10_state.md R36). -/
def ctrlOffset : Word := 0x010

def statusOffset : Word := 0x014

/-- A state in which the word, as the content of `t`, is what the next step runs: a command word has just been started (it is in CMD and
LATCH, BUSY is set, the flags are cleared) and the engine moves next; write data is the host's next transaction (log 2). -/
def placeWord (t : Target) (w : Word) (s : State) : State :=
  match t with
  | .cmd =>
    let p := s.params.set .cmd w
    { clearAllFlags s with params := p, latch := p, seq := .busy, torn := false, agenda := .engine :: s.agenda }
  | .ctrl => { s with agenda := .write (s.cfg.engineBase + ctrlOffset) (wordBytes w) :: s.agenda }
  | .status => { s with agenda := .write (s.cfg.engineBase + statusOffset) (wordBytes w) :: s.agenda }

end Sys2Proof.Machine
end

