-- ==== Sys2Proof/Machine/Step.lean ====
section
/-! DEFINITION. The step. -/

namespace Sys2Proof.Machine

/-- One step: the first turn of the agenda is taken off and taken. With no turn waiting the engine moves: EXEC is eventually taken
(70_reset_and_hazards.md R234; log 25), and an IDLE block with nothing to do stays as it is (60_exceptions.md R213). -/
def step (s : State) : Host.Outcome State Fault Refusal :=
  match s.agenda with
  | [] => engineTurn s
  | t :: rest => takeTurn t { s with agenda := rest }

/-- s with the instruction whose table word is `w` placed where the next step runs it. -/
def State.withFetchWord (s : State) (nbits w : Nat) : State :=
  placeWord (tableTarget nbits (BitVec.ofNat 32 w)) (BitVec.ofNat 32 w) s

end Sys2Proof.Machine
end

