-- ==== Sys2Proof/Safety.lean ====
section
/-! DEFINITION. What claims speak of: the invariant of every state a run reaches, a run without hazard or refused access, a command that is
running and will succeed, and what a completion leaves unchanged. -/

namespace Sys2Proof.Machine

/-- What holds of every reachable state. -/
structure State.Inv (s : State) : Prop where
  /-- Memory keeps its canonical form. -/
  memWf : s.mem.wf = true
  /-- "DONE, ERR and DEGEN are all 0 while BUSY = 1" (10_state.md R40). -/
  busyFlags : s.seq = .busy → s.done = false ∧ s.err = false ∧ s.degen = false
  /-- "At most one of DONE and ERR is 1 at any time" (R40). -/
  doneOrErr : ¬(s.done = true ∧ s.err = true)
  /-- "ERRCODE != 0 exactly when ERR = 1" (R40). -/
  errcodeErr : s.errcode ≠ 0 ↔ s.err = true
  /-- Codes 7..15 are never produced (60_exceptions.md R195). -/
  errcodeRange : s.errcode.toNat ≤ 6
  /-- "LATCH always equals the registers while BUSY" (10_state.md R51). -/
  latchParams : s.seq = .busy → s.latch = s.params
  /-- Only a running command is torn, and then the HAZARD mark is set (70_reset_and_hazards.md R230). -/
  tornBusy : s.torn = true → s.seq = .busy ∧ s.hazard = true

/-- A good state: neither mark is set (10_state.md R56, 30_encoding.md R86, 70_reset_and_hazards.md R230). -/
def State.good (s : State) : Bool := !s.hazard && !s.refused

/-- A command is running that will succeed: its parameters pass every check (40_command_control.md R123), memory admits all its accesses
(20_memory.md R83) and no other agent has touched its ranges (70_reset_and_hazards.md R226, R227). -/
structure Running (op : Op) (vis : Bool) (s : State) : Prop where
  busy : s.seq = .busy
  valid : validateOperands s.cfg op vis s.latch = none
  admitted : allAdmitted s.cfg op vis s.latch = true
  untorn : s.torn = false

/-- The address lies in none of the ranges a command writes. -/
def outsideOutputs (op : Op) (vis : Bool) (l : Params) (a : Nat) : Prop :=
  ∀ r ∈ outputRanges op vis l, AddrRange.contains r a = false

/-- t is s after a successful completion (40_command_control.md R112): OUT_W, OUT_H, DEGEN, DONE, BUSY and the model's torn mark are as the
rule says, and nothing else differs but the bytes of the output ranges. -/
def Completed (op : Op) (vis : Bool) (s t : State) : Prop :=
  t = { s with
    outW := BitVec.ofNat 32 (outWidth op s.latch)
    outH := BitVec.ofNat 32 (outHeight op s.latch)
    degen := t.degen
    done := true
    seq := .idle
    torn := false
    mem := t.mem } ∧
  ∀ a, outsideOutputs op vis s.latch a → t.mem.read a = s.mem.read a

end Sys2Proof.Machine
end

