-- ==== Sys2Proof/Certificates/Slice0/Reference.lean ====
section
/-! DEFINITION. The formulas of the spec's rules written out element by element, for the statements to compare the machine with. Nothing in
the machine uses them. -/

namespace Sys2Proof.Reference

open Sys2Proof.Machine

/-! ### Turns -/

/-- The next step is the engine's: its turn is first, or no turn is waiting. -/
def engineNext (s : State) : Prop := s.agenda = [] ∨ s.agenda.head? = some .engine

/-- The agenda after the step's turn is taken off. -/
def afterTurn (s : State) : State := { s with agenda := s.agenda.tail }

/-- The bus address of an offset of the register window. -/
def windowAddr (s : State) (off : Nat) : Word := s.cfg.engineBase + BitVec.ofNat 32 off

/-- The offsets of the parameter registers, from the table of 10_state.md R36. -/
def paramOffset : ParamReg → Nat
  | .cmd => 0x018
  | .width => 0x01C
  | .height => 0x020
  | .srcAddr => 0x024
  | .srcLen => 0x028
  | .dstAddr => 0x02C
  | .visAddr => 0x030
  | .kerAddr => 0x034
  | .klen => 0x038
  | .dist => 0x03C
  | .radius => 0x040

/-- Some byte of an access lies in the 256 bytes of the register window. -/
def inWindow (s : State) (addr len : Nat) : Prop :=
  0 < len ∧ addr < s.cfg.engineBase.toNat + 0x100 ∧ s.cfg.engineBase.toNat < addr + len

/-- The turn writes CTRL with data v: its bytes are v's, at ENGINE_BASE + 0x010. -/
def writesCtrl (s : State) (v : Word) : Prop :=
  ∃ addr, s.agenda.head? = some (.write addr (wordBytes v)) ∧ addr.toNat = s.cfg.engineBase.toNat + 0x010

/-! ### Completions -/

/-- s after `complete_error(code)` (40_command_control.md R113), memory apart. -/
def errorState (code : BitVec 4) (s : State) : State :=
  { s with
    outW := 0
    outH := 0
    degen := false
    done := false
    errcode := code
    err := true
    seq := .idle
    torn := false }

/-- s with every register of the block at its reset value (10_state.md R54); the parameters, memory, the marks and the model's own fields
of the host stay. LATCH 0 is the model's choice (log 6). -/
def resetRegisters (s : State) : State :=
  { State.reset with
    cfg := s.cfg
    mem := s.mem
    hazard := s.hazard
    refused := s.refused
    draws := s.draws
    hostData := s.hostData
    agenda := s.agenda }

/-- In t, every word of the destination range, and of the visual range if VIS = 1, is a free word drawn in s: the statements say which
draw, and hold for every value of it. -/
def OutputsFree (op : Op) (vis : Bool) (s t : State) : Prop :=
  (∀ i < outWidth op s.latch * outHeight op s.latch,
    t.mem.readWord (s.latch.dstAddr.toNat + 4 * i) = Config.freeWord (s.draws + i)) ∧
  (vis = true → ∀ i < s.latch.width.toNat * s.latch.height.toNat,
    t.mem.readWord (s.latch.visAddr.toNat + 4 * i) =
      Config.freeWord (s.draws + outWidth op s.latch * outHeight op s.latch + i))

/-- Byte `off` of a run of free words that begins with draw number k. -/
def freeByteAt (k off : Nat) : Byte := (Config.freeWord (k + off / 4)).extractLsb' (8 * (off % 4)) 8

/-- In t every byte of the visual range (VIS = 1) and every other byte of the destination range is a byte of a free word drawn in s, and
every other byte is as in s. It holds of ranges that overlap, are not aligned, or run past the end of the address space. -/
def RangesFree (op : Op) (vis : Bool) (s t : State) : Prop :=
  ∀ a < 2 ^ 32, t.mem.read a =
    if vis = true ∧ AddrRange.contains (visRange s.latch) a = true then
      freeByteAt (s.draws + outWidth op s.latch * outHeight op s.latch) (a - s.latch.visAddr.toNat)
    else if AddrRange.contains (dstRange op s.latch) a = true then freeByteAt s.draws (a - s.latch.dstAddr.toNat)
    else s.mem.read a

/-- `validate` of 40_command_control.md R123, line by line, with its own integer square root. -/
def validateCode (c : Config) (l : Params) : Nat :=
  let op := l.cmd.toNat % 16
  let vis := l.cmd.toNat / 16 % 2
  let W := l.width.toNat
  let H := l.height.toNat
  let s := Nat.sqrt l.klen.toNat
  let d := l.dist.toNat
  let half := if op = 1 then s / 2 else if 2 ≤ op ∧ op ≤ 5 then d else 0
  let n := (W - 2 * half) * (H - 2 * half)
  let src := l.srcAddr.toNat
  let dst := l.dstAddr.toNat
  let ker := l.kerAddr.toNat
  let out := l.visAddr.toNat
  if ¬(1 ≤ op ∧ op ≤ 10 ∧ l.cmd.toNat / 32 = 0 ∧ (vis = 0 ∨ op = 6 ∨ op = 8 ∨ op = 9)) then 3
  else if W = 0 ∨ H = 0 ∨ c.maxW.toNat < W ∨ c.maxH.toNat < H ∨ l.srcLen.toNat ≠ W * H then 1
  else if op = 1 ∧ (l.klen.toNat = 0 ∨ s * s ≠ l.klen.toNat ∨ c.kmaxSide.toNat < s ∨ W ≤ 2 * half ∨ H ≤ 2 * half) then 2
  else if (2 ≤ op ∧ op ≤ 5) ∧ (c.dmax.toNat < d ∨ W ≤ 2 * d ∨ H ≤ 2 * d) then 2
  else if src % 4 ≠ 0 ∨ dst % 4 ≠ 0 then 4
  else if op = 1 ∧ ker % 4 ≠ 0 then 4
  else if vis = 1 ∧ out % 4 ≠ 0 then 4
  else if 2 ^ 32 < src + 4 * l.srcLen.toNat ∨ 2 ^ 32 < dst + 4 * n ∨ (op = 1 ∧ 2 ^ 32 < ker + 4 * l.klen.toNat) ∨
      (vis = 1 ∧ 2 ^ 32 < out + 4 * (W * H)) then 5
  else if dst < src + 4 * l.srcLen.toNat ∧ src < dst + 4 * n then 5
  else if op = 1 ∧ dst < ker + 4 * l.klen.toNat ∧ ker < dst + 4 * n then 5
  else if vis = 1 ∧ ((out < src + 4 * l.srcLen.toNat ∧ src < out + 4 * (W * H)) ∨
      (out < dst + 4 * n ∧ dst < out + 4 * (W * H))) then 5
  else 0

/-! ### Elements -/

/-- WIDTH and HEIGHT of the latched command. -/
def W (s : State) : Nat := s.latch.width.toNat

def H (s : State) : Nat := s.latch.height.toNat

/-- The source word at column x, row y (00_scope.md R23), as memory holds it in s. -/
def source (s : State) (x y : Nat) : Word := s.mem.readWord (s.latch.srcAddr.toNat + 4 * (y * W s + x))

/-- Element (x, y) of the destination buffer of s's command, of width `ow`, as memory holds it in t. -/
def output (s t : State) (ow x y : Nat) : Word := t.mem.readWord (s.latch.dstAddr.toNat + 4 * (y * ow + x))

/-- Element i of the visual buffer of s's command, as memory holds it in t. -/
def visual (s t : State) (i : Nat) : Word := t.mem.readWord (s.latch.visAddr.toNat + 4 * i)

/-- The side of the kernel (41_fir.md R130). -/
def firSide (s : State) : Nat := Nat.sqrt s.latch.klen.toNat

/-- The accumulated sum of lane c for output element (ox, oy): weight `ky*side + kx` applies to column `ox + kx`, row `oy + ky`, in one loop
over the weights (41_fir.md R131, R132, R135). -/
def firSum (s : State) (ox oy c : Nat) : F32 :=
  (List.range (firSide s * firSide s)).foldl
    (fun acc i => fadd acc (fmul (s.mem.readWord (s.latch.kerAddr.toNat + 4 * i))
      (f32OfNat (lane (source s (ox + i % firSide s) (oy + i / firSide s)) c).toNat)))
    0x00000000

/-- The side of the order-statistic window (42_order_stat.md R146). -/
def orderSide (s : State) : Nat := 2 * s.latch.dist.toNat + 1

/-- The keys of the window of output element (ox, oy) (42_order_stat.md R146, R147), in one loop. -/
def orderKeys (s : State) (ox oy : Nat) : List Nat :=
  (List.range (orderSide s * orderSide s)).map fun i => key (source s (ox + i % orderSide s) (oy + i / orderSide s))

/-- k is the element at position `n` of the keys in non-decreasing order: it is one of them, at most n of them are smaller, and more than n
are not larger. -/
def IsRank (ks : List Nat) (n k : Nat) : Prop :=
  k ∈ ks ∧ ks.countP (fun j => j < k) ≤ n ∧ n < ks.countP (fun j => j ≤ k)

/-- `C_N(k, n)` (43_dct.md R161). -/
def C (N k n : Nat) : F32 := twiddle N (((2 * n + 1) * k) % (4 * N))

/-- The spatial sample of 43_dct.md R163; 0x40400000 is 3.0. -/
def sample (w : Word) : F32 :=
  fdiv (f32OfNat ((lane w 0).toNat + (lane w 1).toNat + (lane w 2).toNat)) 0x40400000

/-- `T[y][u]` (43_dct.md R164). -/
def dctT (s : State) (y u : Nat) : F32 :=
  fmul (scale (W s) u)
    ((List.range (W s)).foldl (fun acc x => fadd acc (fmul (sample (source s x y)) (C (W s) u x))) 0x00000000)

/-- `F[v][u]` (43_dct.md R164). -/
def dctF (s : State) (v u : Nat) : F32 :=
  fmul (scale (H s) v) ((List.range (H s)).foldl (fun acc y => fadd acc (fmul (dctT s y u) (C (H s) v y))) 0x00000000)

/-- `S[v][x]` (43_dct.md R166). -/
def idctS (s : State) (v x : Nat) : F32 :=
  (List.range (W s)).foldl
    (fun acc u => fadd acc (fmul (fmul (scale (W s) u) (source s u v)) (C (W s) u x))) 0x00000000

/-- The sample at (x, y) before sat_u8 (43_dct.md R166). -/
def idctG (s : State) (y x : Nat) : F32 :=
  (List.range (H s)).foldl (fun acc v => fadd acc (fmul (fmul (scale (H s) v) (idctS s v x)) (C (H s) v y))) 0x00000000

/-- Coefficient i in element order (44_spectral_mask.md R184). -/
def coef (s : State) (i : Nat) : F32 := s.mem.readWord (s.latch.srcAddr.toNat + 4 * i)

/-- `lo` of `norm` over c[0..n] (44_spectral_mask.md R185); 0x7F800000 is +Inf. -/
def normLo (c : Nat → F32) (n : Nat) : F32 :=
  (List.range n).foldl (fun lo i => if flt (c i) lo then c i else lo) 0x7F800000

/-- `hi` of `norm`; 0xFF800000 is -Inf. -/
def normHi (c : Nat → F32) (n : Nat) : F32 :=
  (List.range n).foldl (fun hi i => if fgt (c i) hi then c i else hi) 0xFF800000

/-- Element i of `norm` (44_spectral_mask.md R185, R186); 0x437F0000 is 255.0. -/
def normWord (c : Nat → F32) (n i : Nat) : Word :=
  if fgt (normHi c n) (normLo c n) then
    gray (satU8 (fmul (fdiv (fsub (c i) (normLo c n)) (fsub (normHi c n) (normLo c n))) 0x437F0000))
  else 0x00000000

/-- The degenerate flag of `norm`. -/
def normDegen (c : Nat → F32) (n : Nat) : Bool := !fgt (normHi c n) (normLo c n)

/-! ### Real values -/

/-- The value is finite: its exponent field is not all ones (00_scope.md R12). -/
def FiniteF32 (a : F32) : Prop := f32Exp a ≠ 255

/-- The real value of a finite binary32: `(-1)^sign * 2^(e-150) * (2^23 + frac)`, and `2^-149 * frac` for a subnormal (00_scope.md R12). -/
def realValue (a : F32) : ℚ :=
  (if a.getLsbD 31 then -1 else 1) *
    (if f32Exp a = 0 then (f32Frac a : ℚ) * (2 : ℚ) ^ (-149 : ℤ)
     else ((2 : ℚ) ^ 23 + f32Frac a) * (2 : ℚ) ^ ((f32Exp a : ℤ) - 150))

/-- The infinity and the zero of a sign (00_scope.md R12). -/
def infinity (neg : Bool) : F32 := if neg then 0xFF800000 else 0x7F800000

def zero (neg : Bool) : F32 := if neg then 0x80000000 else 0x00000000

/-- The sign bit. -/
def sign (a : F32) : Bool := a.getLsbD 31

/-- r is x rounded to nearest, ties to even (00_scope.md R13, R15). -/
def RoundsTo (x : ℝ) (r : F32) : Prop :=
  FiniteF32 r ∧ ∀ b, FiniteF32 b → |(realValue r : ℝ) - x| ≤ |(realValue b : ℝ) - x| ∧
    (|(realValue r : ℝ) - x| = |(realValue b : ℝ) - x| → realValue b ≠ realValue r → r.getLsbD 0 = false)

/-- The rounding of x, overflow included: magnitudes from halfway past the largest finite value give the infinity of their sign. -/
def RoundsToF32 (x : ℝ) (r : F32) : Prop :=
  (|x| < (2 : ℝ) ^ 128 - (2 : ℝ) ^ 103 → RoundsTo x r) ∧
  ((2 : ℝ) ^ 128 - (2 : ℝ) ^ 103 ≤ x → r = 0x7F800000) ∧
  (x ≤ -((2 : ℝ) ^ 128 - (2 : ℝ) ^ 103) → r = 0xFF800000)

end Sys2Proof.Reference
end

