-- ==== Sys2Proof/Certificates/Slice0/Obligations.lean ====
section
/-! DEFINITION. The statements for the provers. Each docstring names the rule of the spec it formalises. -/

open Sys2Proof Sys2Proof.Machine Sys2Proof.Reference

/-! ### Encoding and the step -/

/-- 30_encoding.md R90: the legal command words are those whose fields pass the three tests; they are thirteen; any other word ends EXEC
with E_ILLEGAL, before any other check and with no memory access. -/
def Obligations.LegalCommandWords : Prop :=
  (∀ w : Word, (∃ i, decodeCommand w = .ok i) ↔
    (1 ≤ w.toNat % 16 ∧ w.toNat % 16 ≤ 0xA ∧ w.toNat / 32 = 0 ∧
      (w.getLsbD 4 = false ∨ w.toNat % 16 = 6 ∨ w.toNat % 16 = 8 ∨ w.toNat % 16 = 9))) ∧
  (∀ w : Word, (∃ i, decodeCommand w = .ok i) ↔
    w ∈ ([0x01, 0x02, 0x03, 0x04, 0x05, 0x06, 0x07, 0x08, 0x09, 0x0A, 0x16, 0x18, 0x19] : List Word)) ∧
  (∀ s : State, s.seq = .busy → engineNext s → (∀ i, decodeCommand s.latch.cmd ≠ .ok i) →
    step s = .next (errorState 3 (afterTurn s)))

/-- 30_encoding.md R99: the command word of each mnemonic, written out. -/
def Obligations.CommandWordsByMnemonic : Prop :=
  decodeCommand 0x00000001 = .ok .conv ∧ decodeCommand 0x00000002 = .ok .median ∧ decodeCommand 0x00000003 = .ok .min ∧
  decodeCommand 0x00000004 = .ok .max ∧ decodeCommand 0x00000005 = .ok .midpoint ∧ decodeCommand 0x00000006 = .ok .dct ∧
  decodeCommand 0x00000007 = .ok .idct ∧ decodeCommand 0x00000008 = .ok .lowpass ∧ decodeCommand 0x00000009 = .ok .highpass ∧
  decodeCommand 0x0000000A = .ok .normalize ∧ decodeCommand 0x00000016 = .ok .dctVis ∧
  decodeCommand 0x00000018 = .ok .lowpassVis ∧ decodeCommand 0x00000019 = .ok .highpassVis

/-- 30_encoding.md R90, R94, R95: decoding the encoding of an instruction gives it back, through the bytes of the word; and a command word
has one meaning: the decoder accepts a word as a command only if it is that command's encoding, so no bit of it is dropped. -/
def Obligations.DecodeEncodeAgree : Prop :=
  (∀ i : Instr, i.wf = true → decodeBytes (encode i).1 (wordBytes (encode i).2) = .ok i) ∧
  (∀ (w : Word) (i : Instr), decodeCommand w = .ok i → encode i = (.cmd, w))

/-- What a step runs: the latched command word while BUSY, and the write data of a CTRL or STATUS transaction, each through `exec` after the
turn is taken off the agenda (40_command_control.md R110, R106, R115; the agenda is the model's, log 1). -/
def Obligations.StepRunsDecodedInstruction : Prop :=
  (∀ (s : State) (i : Instr), s.seq = .busy → engineNext s → decodeCommand s.latch.cmd = .ok i → step s = exec i (afterTurn s)) ∧
  (∀ (s : State) (rest : List Turn) (v : Word), s.cfg.wf = true →
    s.agenda = .write (windowAddr s 0x010) (wordBytes v) :: rest → step s = exec (decodeCtrl v) (afterTurn s)) ∧
  (∀ (s : State) (rest : List Turn) (v : Word), s.cfg.wf = true →
    s.agenda = .write (windowAddr s 0x014) (wordBytes v) :: rest → step s = exec (decodeStatus v) (afterTurn s))

/-- The word placed by `withFetchWord` is what the next step runs: a command after its START, a control action as the host's next write
(log 2). -/
def Obligations.PlacedWordRunsNext : Prop :=
  (∀ (s : State) (w : Nat) (i : Instr), w < 2 ^ 32 → decodeCommand (BitVec.ofNat 32 w) = .ok i →
    ∃ t, t.seq = .busy ∧ t.latch = t.params ∧ t.latch.cmd = BitVec.ofNat 32 w ∧ t.mem = s.mem ∧ t.cfg = s.cfg ∧ t.agenda = s.agenda ∧
      step (s.withFetchWord 32 w) = exec i t) ∧
  (∀ (s : State) (w : Nat) (i : Instr), s.cfg.wf = true → w < 2 ^ 32 → decodeTableWord 8 w = some i →
    step (s.withFetchWord 8 w) = exec i s)

/-! ### The register window -/

/-- 40_command_control.md R114: a read of any offset returns the register's current value and has no side effect, BUSY or not; and what each
offset reads as (10_state.md R36 to R49). -/
def Obligations.WindowReadReturnsRegister : Prop :=
  (∀ (s : State) (rest : List Turn) (off : Nat), s.cfg.wf = true → off % 4 = 0 → off < 0x100 →
    s.agenda = .read (windowAddr s off) 4 :: rest →
    step s = .next { afterTurn s with hostData := wordBytes (readOffset s off) }) ∧
  ∀ s : State,
    readOffset s 0x000 = 0x4B41594E ∧ readOffset s 0x004 = 0x00010007 ∧
    ((readOffset s 0x008).extractLsb' 0 8 = s.cfg.kmaxSide ∧ (readOffset s 0x008).extractLsb' 8 8 = s.cfg.dmax ∧
      (readOffset s 0x008).extractLsb' 16 8 = s.cfg.numWorkers ∧ (readOffset s 0x008).extractLsb' 24 8 = 0) ∧
    ((readOffset s 0x00C).extractLsb' 0 16 = s.cfg.maxW ∧ (readOffset s 0x00C).extractLsb' 16 16 = s.cfg.maxH) ∧
    readOffset s 0x010 = (BitVec.ofBool s.irqEn).zeroExtend 32 <<< 2 ∧
    (((readOffset s 0x014).getLsbD 0 = true ↔ s.seq = .busy) ∧ (readOffset s 0x014).getLsbD 1 = s.done ∧
      (readOffset s 0x014).getLsbD 2 = s.err ∧ (readOffset s 0x014).getLsbD 3 = s.degen ∧
      (readOffset s 0x014).extractLsb' 4 4 = 0 ∧ (readOffset s 0x014).extractLsb' 8 4 = s.errcode ∧
      (readOffset s 0x014).extractLsb' 12 20 = 0) ∧
    (∀ r, readOffset s (paramOffset r) = s.params.get r) ∧
    readOffset s 0x044 = s.outW ∧ readOffset s 0x048 = s.outH ∧
    (∀ off, 0x04C ≤ off → off < 0x100 → readOffset s off = 0)

/-- 40_command_control.md R105: a parameter write stores all 32 bits while IDLE and is lost while BUSY; nothing else changes. -/
def Obligations.ParameterWrite : Prop :=
  ∀ (s : State) (rest : List Turn) (r : ParamReg) (v : Word), s.cfg.wf = true →
    s.agenda = .write (windowAddr s (paramOffset r)) (wordBytes v) :: rest →
    (s.seq = .busy → step s = .next (afterTurn s)) ∧
    (s.seq = .idle → ∃ t, step s = .next t ∧ t = { afterTurn s with params := t.params } ∧ t.params.get r = v ∧
      ∀ q, q ≠ r → t.params.get q = s.params.get q)

/-- 40_command_control.md R116: writes to ID, VERSION, CAPS, CAPS_DIM, OUT_W, OUT_H and the reserved offsets have no effect. -/
def Obligations.ReadOnlyWriteIgnored : Prop :=
  ∀ (s : State) (rest : List Turn) (off : Nat) (v : Word), s.cfg.wf = true → off % 4 = 0 →
    (off < 0x010 ∨ off = 0x044 ∨ off = 0x048 ∨ (0x04C ≤ off ∧ off < 0x100)) →
    s.agenda = .write (windowAddr s off) (wordBytes v) :: rest → step s = .next (afterTurn s)

/-- 30_encoding.md R86: an access to the window that is not an aligned 32-bit access sets the REFUSED mark and has no effect on any register
or on memory; what such a read returns is free (log 14). That an access which straddles the edge of the window counts as one to the window
and is refused whole is log 24. -/
def Obligations.ImproperWindowAccessRefused : Prop :=
  (∀ (s : State) (rest : List Turn) (addr : Word) (data : List Byte), s.agenda = .write addr data :: rest →
    inWindow s addr.toNat data.length → ¬(data.length = 4 ∧ addr.toNat % 4 = 0) →
    step s = .next { afterTurn s with refused := true }) ∧
  (∀ (s : State) (rest : List Turn) (addr : Word) (len : Nat), s.agenda = .read addr len :: rest →
    inWindow s addr.toNat len → ¬(len = 4 ∧ addr.toNat % 4 = 0) →
    ∃ t, step s = .next t ∧ t = { afterTurn s with refused := true, hostData := t.hostData, draws := t.draws })

/-! ### Control actions -/

/-- 40_command_control.md R107, R109: an accepted START, with any command word, clears the flags, latches the parameters and sets BUSY; OUT_W,
OUT_H and everything else keep their values; STATUS then reads 1 and IRQ is 0. -/
def Obligations.StartAccepted : Prop :=
  ∀ (s : State) (e : Bool), s.seq = .idle →
    ∃ t, exec (.start e) s = .next t ∧
      t = { s with
        irqEn := e
        done := false
        err := false
        degen := false
        errcode := 0
        latch := s.params
        seq := .busy
        torn := false } ∧
      statusWord t = 0x00000001 ∧ irq t = false

/-- 40_command_control.md R108: START while BUSY only loads IRQ_EN. -/
def Obligations.StartWhileBusyIgnored : Prop :=
  ∀ (s : State) (e : Bool), s.seq = .busy → exec (.start e) s = .next { s with irqEn := e }

/-- 40_command_control.md R106: a CTRL write by its three bits: bit 1 is a soft reset whatever the others say; otherwise bit 2 is loaded into
IRQ_EN and bit 0 starts the command. SETIRQ, the write with bits 1:0 clear (30_encoding.md R95), loads IRQ_EN and changes nothing else. That
a soft reset makes LATCH 0 is log 6, and that it keeps the marks, the parameters and the host's fields is log 22. -/
def Obligations.CtrlWriteByBits : Prop :=
  (∀ (s : State) (v : Word),
    (v.getLsbD 1 = true → ∃ t, exec (decodeCtrl v) s = .next t ∧ t = { resetRegisters s with mem := t.mem, draws := t.draws }) ∧
    (v.getLsbD 1 = false → v.getLsbD 0 = false → exec (decodeCtrl v) s = .next { s with irqEn := v.getLsbD 2 }) ∧
    (v.getLsbD 1 = false → v.getLsbD 0 = true → exec (decodeCtrl v) s = exec (.start (v.getLsbD 2)) s)) ∧
  (∀ (s : State) (e : Bool), exec (.setIrq e) s = .next { s with irqEn := e })

/-- 40_command_control.md R115: a STATUS write clears the selected flags, and ERRCODE with ERR, and changes nothing else; while BUSY, in a
state with the invariant, nothing at all; clearing DONE and ERR drops IRQ. CLEAR with each choice of flags completes in every state. -/
def Obligations.StatusWriteClears : Prop :=
  (∀ (s : State) (v : Word), ∃ t, exec (decodeStatus v) s = .next t ∧
    t = { s with done := t.done, degen := t.degen, err := t.err, errcode := t.errcode } ∧
    t.done = (if v.getLsbD 1 then false else s.done) ∧ t.degen = (if v.getLsbD 3 then false else s.degen) ∧
    t.err = (if v.getLsbD 2 then false else s.err) ∧ t.errcode = (if v.getLsbD 2 then 0 else s.errcode) ∧
    (s.Inv → s.seq = .busy → t = s) ∧ (v.getLsbD 1 = true → v.getLsbD 2 = true → irq t = false)) ∧
  (∀ (s : State) (d e g : Bool), exec (.clear d e g) s = .next { s with
    done := s.done && !d
    degen := s.degen && !g
    err := s.err && !e
    errcode := if e then 0 else s.errcode })

/-- 10_state.md R54: the reset value of every register, as the window reads it, with the sequencer IDLE and IRQ 0. -/
def Obligations.ResetValues : Prop :=
  readOffset State.reset 0x000 = 0x4B41594E ∧ readOffset State.reset 0x004 = 0x00010007 ∧
  readOffset State.reset 0x008 = 0x00040F1F ∧ readOffset State.reset 0x00C = 0x10001000 ∧
  (∀ off, 0x010 ≤ off → off ≤ 0x048 → off % 4 = 0 → readOffset State.reset off = 0) ∧
  State.reset.seq = .idle ∧ irq State.reset = false

/-- 70_reset_and_hazards.md R221, R220: SRST while IDLE gives every register its reset value and leaves memory alone; the reset input does
the same as SRST in every state. -/
def Obligations.SoftResetRegisters : Prop :=
  (∀ s : State, s.seq = .idle → exec .srst s = .next (resetRegisters s)) ∧
  (∀ s : State, ∃ t, exec .srst s = .next t ∧ t = { resetRegisters s with mem := t.mem, draws := t.draws }) ∧
  (∀ (s : State) (rest : List Turn), s.agenda = .reset :: rest → step s = exec .srst (afterTurn s))

/-- 70_reset_and_hazards.md R222: a reset that aborts a command of a legal word, valid or not, makes every word of its destination range, and
of its visual range if VIS = 1, free, and changes no other byte; where the ranges are valid each word is one free word. An illegal word
has no ranges and its abort changes no memory (30_encoding.md R93; DEDUCED, log 11, as is that a range ends with the address space;
a border that exceeds the image leaves an empty range, log 12). LATCH 0 is log 6, what a reset keeps is log 22. -/
def Obligations.ResetAbortsCommand : Prop :=
  (∀ (s : State) (i : Instr) (op : Op) (vis : Bool), s.seq = .busy → s.mem.wf = true → decodeCommand s.latch.cmd = .ok i →
    commandOp i = some (op, vis) →
    ∃ t, exec .srst s = .next t ∧ t.seq = .idle ∧ RangesFree op vis s t ∧
      (validateOperands s.cfg op vis s.latch = none → OutputsFree op vis s t) ∧
      ∀ a, outsideOutputs op vis s.latch a → t.mem.read a = s.mem.read a) ∧
  (∀ s : State, s.seq = .busy → (∀ i, decodeCommand s.latch.cmd ≠ .ok i) → exec .srst s = .next (resetRegisters s))

/-- 60_exceptions.md R201: a soft reset and EXEC in either order: both leave the block's registers at their reset values; if EXEC is first its
memory stays, and if SRST is first EXEC is no longer enabled. -/
def Obligations.SoftResetAndExecOrders : Prop :=
  ∀ (s : State) (i : Instr), s.seq = .busy → decodeCommand s.latch.cmd = .ok i →
    ∃ t u v, exec i s = .next t ∧ exec .srst t = .next u ∧ u.mem = t.mem ∧ exec .srst s = .next v ∧ engineTurn v = .next v ∧
      u = { resetRegisters s with mem := u.mem, draws := u.draws } ∧ v = { resetRegisters s with mem := v.mem, draws := v.draws }

/-- 60_exceptions.md R203: when IRQ is 1, and what makes it rise and fall. DEGEN does not drive it. -/
def Obligations.IrqLine : Prop :=
  ∀ s : State,
    (irq s = true ↔ s.irqEn = true ∧ (s.done = true ∨ s.err = true)) ∧
    (∀ g, ∃ t, exec (.clear true true g) s = .next t ∧ irq t = false) ∧
    (s.seq = .idle → ∀ e, ∃ t, exec (.start e) s = .next t ∧ irq t = false) ∧
    (∃ t, exec (.setIrq false) s = .next t ∧ irq t = false) ∧
    (s.done = true ∨ s.err = true → ∃ t, exec (.setIrq true) s = .next t ∧ irq t = true) ∧
    (∃ t, exec .srst s = .next t ∧ irq t = false) ∧
    (∀ i op vis, commandOp i = some (op, vis) → s.seq = .busy → ∃ t, exec i s = .next t ∧ irq t = s.irqEn)

/-! ### Validation and errors -/

/-- 40_command_control.md R123: the model's validation is the pseudocode's, for every configuration and latch. -/
def Obligations.ValidationIsThePseudocode : Prop :=
  ∀ (c : Config) (l : Params),
    (match validate c l with
      | none => 0
      | some e => e.code.toNat) = validateCode c l

/-- 40_command_control.md R113, R122; 60_exceptions.md R198: a command that fails a check completes with the check's code, changes no memory
and records nothing else. -/
def Obligations.ValidationErrorCompletes : Prop :=
  ∀ (s : State) (i : Instr) (op : Op) (vis : Bool) (e : CmdError), s.seq = .busy → commandOp i = some (op, vis) →
    validateOperands s.cfg op vis s.latch = some e → exec i s = .next (errorState e.code s)

/-- 20_memory.md R83; 60_exceptions.md R197: if memory does not admit an access of a valid command it ends with E_BUS, every word of its
outputs is free, and every other byte is unchanged. -/
def Obligations.BusErrorCompletes : Prop :=
  ∀ (s : State) (i : Instr) (op : Op) (vis : Bool), s.seq = .busy → s.mem.wf = true → commandOp i = some (op, vis) →
    validateOperands s.cfg op vis s.latch = none → allAdmitted s.cfg op vis s.latch = false →
    ∃ t, exec i s = .next t ∧ t = { errorState 6 s with mem := t.mem, draws := t.draws } ∧ OutputsFree op vis s t ∧
      ∀ a, outsideOutputs op vis s.latch a → t.mem.read a = s.mem.read a

/-- Which accesses count (20_memory.md R67, R83; the even-sided kernel is log 13): if every word of the used ranges is admitted the command is
admitted; if a word of an output, of the kernel (CONV) or, unless the kernel's side is even, of the source is denied, it is not. -/
def Obligations.AdmissionCoversRanges : Prop :=
  ∀ (c : Config) (op : Op) (vis : Bool) (l : Params), validateOperands c op vis l = none →
    ((∀ a, a % 4 = 0 → (∃ r ∈ inputRanges op l ++ outputRanges op vis l, AddrRange.contains r a = true) → admits c a = true) →
      allAdmitted c op vis l = true) ∧
    (∀ a, a % 4 = 0 → admits c a = false →
      ((∃ r ∈ outputRanges op vis l, AddrRange.contains r a = true) ∨
        (op = .conv ∧ AddrRange.contains (kernelRange l) a = true) ∨
        (windowSide op l % 2 = 1 ∧ AddrRange.contains (sourceRange l) a = true)) →
      allAdmitted c op vis l = false)

/-! ### Results -/

/-- 41_fir.md R133, R131, R132, R134, R135, R136: CONV. Every lane of every output element is the accumulated sum, truncated and saturated;
byte 3 is 0. -/
def Obligations.ConvOutput : Prop :=
  ∀ s : State, Running .conv false s → s.mem.wf = true →
    ∃ t, exec .conv s = .next t ∧ Completed .conv false s t ∧ t.degen = false ∧
      ∀ ox oy, ox < W s - 2 * (firSide s / 2) → oy < H s - 2 * (firSide s / 2) →
        (∀ c < 3, lane (output s t (W s - 2 * (firSide s / 2)) ox oy) c = satU8 (firSum s ox oy c)) ∧
        (output s t (W s - 2 * (firSide s / 2)) ox oy).extractLsb' 24 8 = 0

/-- 42_order_stat.md R150, R146, R147, R148: MEDIAN writes the key at position `area / 2`. -/
def Obligations.MedianOutput : Prop :=
  ∀ s : State, Running .median false s → s.mem.wf = true →
    ∃ t, exec .median s = .next t ∧ Completed .median false s t ∧ t.degen = false ∧
      ∀ ox oy, ox < W s - 2 * s.latch.dist.toNat → oy < H s - 2 * s.latch.dist.toNat →
        IsRank (orderKeys s ox oy) (orderSide s * orderSide s / 2)
          (output s t (W s - 2 * s.latch.dist.toNat) ox oy).toNat

/-- 42_order_stat.md R151, R152: MIN writes the smallest key of the window and MAX the largest. -/
def Obligations.MinMaxOutput : Prop :=
  (∀ s : State, Running .min false s → s.mem.wf = true →
    ∃ t, exec .min s = .next t ∧ Completed .min false s t ∧ t.degen = false ∧
      ∀ ox oy, ox < W s - 2 * s.latch.dist.toNat → oy < H s - 2 * s.latch.dist.toNat →
        (output s t (W s - 2 * s.latch.dist.toNat) ox oy).toNat ∈ orderKeys s ox oy ∧
        ∀ k ∈ orderKeys s ox oy, (output s t (W s - 2 * s.latch.dist.toNat) ox oy).toNat ≤ k) ∧
  (∀ s : State, Running .max false s → s.mem.wf = true →
    ∃ t, exec .max s = .next t ∧ Completed .max false s t ∧ t.degen = false ∧
      ∀ ox oy, ox < W s - 2 * s.latch.dist.toNat → oy < H s - 2 * s.latch.dist.toNat →
        (output s t (W s - 2 * s.latch.dist.toNat) ox oy).toNat ∈ orderKeys s ox oy ∧
        ∀ k ∈ orderKeys s ox oy, k ≤ (output s t (W s - 2 * s.latch.dist.toNat) ox oy).toNat)

/-- 42_order_stat.md R153: MIDPOINT writes, lane by lane, the average of the smallest and the largest key, a half rounded upward. -/
def Obligations.MidpointOutput : Prop :=
  ∀ s : State, Running .midpoint false s → s.mem.wf = true →
    ∃ t, exec .midpoint s = .next t ∧ Completed .midpoint false s t ∧ t.degen = false ∧
      ∀ ox oy, ox < W s - 2 * s.latch.dist.toNat → oy < H s - 2 * s.latch.dist.toNat →
        ∃ lo ∈ orderKeys s ox oy, ∃ hi ∈ orderKeys s ox oy, (∀ k ∈ orderKeys s ox oy, lo ≤ k ∧ k ≤ hi) ∧
          (∀ c < 3, (lane (output s t (W s - 2 * s.latch.dist.toNat) ox oy) c).toNat =
            (lo / 2 ^ (8 * c) % 256 + hi / 2 ^ (8 * c) % 256 + 1) / 2) ∧
          (output s t (W s - 2 * s.latch.dist.toNat) ox oy).extractLsb' 24 8 = 0

/-- 43_dct.md R164, R163, R165: DCT, with and without the visual output: coefficient (u, v) is at element `v*W + u`. -/
def Obligations.DctOutput : Prop :=
  ∀ (vis : Bool) (s : State), Running .dct vis s → s.mem.wf = true → s.cfg.wf = true →
    ∃ t, exec (if vis then .dctVis else .dct) s = .next t ∧ Completed .dct vis s t ∧ (vis = false → t.degen = false) ∧
      ∀ u v, u < W s → v < H s → output s t (W s) u v = dctF s v u

/-- 43_dct.md R166, R167: IDCT: every output pixel is the reconstructed sample, clamped and truncated, in all three lanes. -/
def Obligations.IdctOutput : Prop :=
  ∀ s : State, Running .idct false s → s.mem.wf = true → s.cfg.wf = true →
    ∃ t, exec .idct s = .next t ∧ Completed .idct false s t ∧ t.degen = false ∧
      ∀ x y, x < W s → y < H s → output s t (W s) x y = gray (satU8 (idctG s y x))

/-- 44_spectral_mask.md R181, R180: LOWPASS, with and without the visual output. -/
def Obligations.LowpassOutput : Prop :=
  ∀ (vis : Bool) (s : State), Running .lowpass vis s → s.mem.wf = true →
    ∃ t, exec (if vis then .lowpassVis else .lowpass) s = .next t ∧ Completed .lowpass vis s t ∧ (vis = false → t.degen = false) ∧
      ∀ u v, u < W s → v < H s →
        output s t (W s) u v = if s.latch.radius.toNat ^ 2 < u ^ 2 + v ^ 2 then 0x00000000 else source s u v

/-- 44_spectral_mask.md R182, R180: HIGHPASS, with and without the visual output. -/
def Obligations.HighpassOutput : Prop :=
  ∀ (vis : Bool) (s : State), Running .highpass vis s → s.mem.wf = true →
    ∃ t, exec (if vis then .highpassVis else .highpass) s = .next t ∧ Completed .highpass vis s t ∧ (vis = false → t.degen = false) ∧
      ∀ u v, u < W s → v < H s →
        output s t (W s) u v = if u ^ 2 + v ^ 2 ≤ s.latch.radius.toNat ^ 2 then 0x00000000 else source s u v

/-- 44_spectral_mask.md R184, R185, R186: NORMALIZE writes `norm` of the coefficients and sets DEGEN to its flag. -/
def Obligations.NormalizeOutput : Prop :=
  ∀ s : State, Running .normalize false s → s.mem.wf = true →
    ∃ t, exec .normalize s = .next t ∧ Completed .normalize false s t ∧ t.degen = normDegen (coef s) (W s * H s) ∧
      ∀ i < W s * H s, t.mem.readWord (s.latch.dstAddr.toNat + 4 * i) = normWord (coef s) (W s * H s) i

/-- 44_spectral_mask.md R187: a command with VIS = 1 is DCT, LOWPASS or HIGHPASS; its visual words and DEGEN are `norm` of its destination
words, which is what NORMALIZE of the destination buffer gives; with VIS = 0 nothing is written at VIS_ADDR and DEGEN is 0. -/
def Obligations.VisualOutputIsNormalize : Prop :=
  (∀ (i : Instr) (op : Op) (s : State), commandOp i = some (op, true) → Running op true s → s.mem.wf = true → s.cfg.wf = true →
    op ∈ [Op.dct, Op.lowpass, Op.highpass] ∧
    ∃ t, exec i s = .next t ∧
      (let dst := fun k => t.mem.readWord (s.latch.dstAddr.toNat + 4 * k)
       t.degen = normDegen dst (W s * H s) ∧ ∀ k < W s * H s, visual s t k = normWord dst (W s * H s) k) ∧
      ∀ n : State, Running .normalize false n → n.mem = t.mem → n.latch.srcAddr = s.latch.dstAddr →
        W n * H n = W s * H s →
        ∃ q, exec .normalize n = .next q ∧ q.degen = t.degen ∧
          ∀ k < W s * H s, q.mem.readWord (n.latch.dstAddr.toNat + 4 * k) = visual s t k) ∧
  (∀ (i : Instr) (op : Op) (s : State), commandOp i = some (op, false) → op ∈ [Op.dct, Op.lowpass, Op.highpass] →
    Running op false s →
    ∃ t, exec i s = .next t ∧ t.degen = false ∧
      ∀ a, AddrRange.contains (dstRange op s.latch) a = false → t.mem.read a = s.mem.read a)

/-! ### Properties of the results -/

/-- 41_fir.md R138: the 3×3 identity kernel reproduces the interior, byte 3 cleared. -/
def Obligations.IdentityKernelKeepsInterior : Prop :=
  ∀ s : State, Running .conv false s → s.mem.wf = true → s.latch.klen = 9 →
    (∀ i < 9, s.mem.readWord (s.latch.kerAddr.toNat + 4 * i) = if i = 4 then 0x3F800000 else 0x00000000) →
    ∃ t, exec .conv s = .next t ∧
      ∀ ox oy, ox < W s - 2 → oy < H s - 2 → output s t (W s - 2) ox oy = source s (ox + 1) (oy + 1) &&& 0x00FFFFFF

/-- 42_order_stat.md R154: with d = 0 all four order statistics copy the pixels with byte 3 cleared. -/
def Obligations.DistanceZeroCopies : Prop :=
  ∀ (i : Instr) (op : Op) (s : State), commandOp i = some (op, false) → op ∈ [Op.median, Op.min, Op.max, Op.midpoint] →
    Running op false s → s.mem.wf = true → s.latch.dist = 0 →
    ∃ t, exec i s = .next t ∧ t.outW = s.latch.width ∧ t.outH = s.latch.height ∧
      ∀ x y, x < W s → y < H s → output s t (W s) x y = source s x y &&& 0x00FFFFFF

/-- 44_spectral_mask.md R183: at every element one of LOWPASS and HIGHPASS writes 0 and the other copies the source word. -/
def Obligations.MasksAreComplements : Prop :=
  ∀ s : State, Running .lowpass false s → Running .highpass false s → s.mem.wf = true →
    ∃ a b, exec .lowpass s = .next a ∧ exec .highpass s = .next b ∧
      ∀ u v, u < W s → v < H s →
        (output s a (W s) u v = 0 ∧ output s b (W s) u v = source s u v) ∨
        (output s a (W s) u v = source s u v ∧ output s b (W s) u v = 0)

/-- 44_spectral_mask.md R188, items 3 and 4: from `R*R = (W-1)² + (H-1)²` on, HIGHPASS zeroes every element and LOWPASS keeps every one; below,
HIGHPASS keeps the far corner and LOWPASS zeroes it. -/
def Obligations.MaskThreshold : Prop :=
  ∀ s : State, Running .highpass false s → s.mem.wf = true →
    ∃ a b, exec .highpass s = .next a ∧ exec .lowpass s = .next b ∧
      ((W s - 1) ^ 2 + (H s - 1) ^ 2 ≤ s.latch.radius.toNat ^ 2 →
        ∀ u v, u < W s → v < H s → output s a (W s) u v = 0 ∧ output s b (W s) u v = source s u v) ∧
      (s.latch.radius.toNat ^ 2 < (W s - 1) ^ 2 + (H s - 1) ^ 2 →
        output s a (W s) (W s - 1) (H s - 1) = source s (W s - 1) (H s - 1) ∧ output s b (W s) (W s - 1) (H s - 1) = 0)

/-- 44_spectral_mask.md R186: NORMALIZE is degenerate exactly when no coefficient is below another; then every word is 0, and the command
still succeeds with DONE. -/
def Obligations.DegenerateNormalize : Prop :=
  ∀ s : State, Running .normalize false s → s.mem.wf = true →
    ∃ t, exec .normalize s = .next t ∧ t.done = true ∧
      (t.degen = true ↔ ∀ i j, i < W s * H s → j < W s * H s → flt (coef s i) (coef s j) = false) ∧
      (t.degen = true → ∀ i < W s * H s, t.mem.readWord (s.latch.dstAddr.toNat + 4 * i) = 0)

/-- 44_spectral_mask.md R185: where the range is finite the element equal to hi maps to exactly 255, the one equal to lo to 0, and a NaN
to 0. -/
def Obligations.NormalizeExtremes : Prop :=
  ∀ s : State, Running .normalize false s → s.mem.wf = true →
    fgt (normHi (coef s) (W s * H s)) (normLo (coef s) (W s * H s)) = true →
    FiniteF32 (fsub (normHi (coef s) (W s * H s)) (normLo (coef s) (W s * H s))) →
    ∃ t, exec .normalize s = .next t ∧ ∀ i < W s * H s,
      (f32IsNaN (coef s i) = true → t.mem.readWord (s.latch.dstAddr.toNat + 4 * i) = 0) ∧
      (f32IsNaN (coef s i) = false → f32Signed (coef s i) = f32Signed (normHi (coef s) (W s * H s)) →
        t.mem.readWord (s.latch.dstAddr.toNat + 4 * i) = gray 255) ∧
      (f32IsNaN (coef s i) = false → f32Signed (coef s i) = f32Signed (normLo (coef s) (W s * H s)) →
        t.mem.readWord (s.latch.dstAddr.toNat + 4 * i) = 0)

/-- 43_dct.md R169: if every coefficient but F(0,0) is +0.0, IDCT writes the same value, scaled from F(0,0) alone, at every pixel. -/
def Obligations.IdctOfDcOnlyIsUniform : Prop :=
  ∀ s : State, Running .idct false s → s.mem.wf = true → s.cfg.wf = true →
    (∀ i < W s * H s, i ≠ 0 → coef s i = 0x00000000) →
    ∃ t, exec .idct s = .next t ∧ ∀ x y, x < W s → y < H s →
      output s t (W s) x y = gray (satU8 (fmul (scale (H s) 0) (fmul (scale (W s) 0) (coef s 0))))

/-- 40_command_control.md R125: the outputs, DEGEN, OUT_W and OUT_H are a function of LATCH and of the source and kernel contents alone: two
machines, of any number of workers, with any other memory and history, agree on them. -/
def Obligations.ResultIsFunctionOfInputs : Prop :=
  ∀ (i : Instr) (op : Op) (vis : Bool) (s s' : State), commandOp i = some (op, vis) → Running op vis s → Running op vis s' →
    s.mem.wf = true → s'.mem.wf = true → s.cfg.wf = true → s'.cfg.wf = true → s.latch = s'.latch →
    (∀ a, (∃ r ∈ inputRanges op s.latch, AddrRange.contains r a = true) → s.mem.read a = s'.mem.read a) →
    ∃ t t', exec i s = .next t ∧ exec i s' = .next t' ∧ t.degen = t'.degen ∧ t.outW = t'.outW ∧ t.outH = t'.outH ∧
      ∀ a, (∃ r ∈ outputRanges op vis s.latch, AddrRange.contains r a = true) → t.mem.read a = t'.mem.read a

/-- 43_dct.md R175, R171: the number of workers, from one up, changes nothing a command does. -/
def Obligations.WorkersUnobservable : Prop :=
  ∀ (i : Instr) (s t : State) (p q : BitVec 8), (∃ op vis, commandOp i = some (op, vis)) → p ≠ 0 → q ≠ 0 →
    exec i { s with cfg := { s.cfg with numWorkers := p } } = .next t →
    exec i { s with cfg := { s.cfg with numWorkers := q } } = .next { t with cfg := { t.cfg with numWorkers := q } }

/-! ### Hazards -/

/-- 70_reset_and_hazards.md R226, R227, R230; 20_memory.md R82: a host write of memory lands; it sets the HAZARD mark exactly when a byte of it
lies in a range of the running command, or the mark was set before. That a command which will fail validation protects the ranges of the
formulas is log 12, and that the write always lands is log 20. A running illegal word is in IdleHostAccess. -/
def Obligations.HostWriteHazard : Prop :=
  ∀ (s : State) (rest : List Turn) (addr : Word) (data : List Byte) (op : Op) (vis : Bool), s.seq = .busy →
    latchedCommand s.latch = some (op, vis) → s.agenda = .write addr data :: rest → ¬ inWindow s addr.toNat data.length →
    addr.toNat + data.length ≤ 2 ^ 32 →
    ∃ t, step s = .next t ∧ t = { afterTurn s with mem := s.mem.writeBytes addr.toNat data, hazard := t.hazard, torn := t.torn } ∧
      (t.hazard = true ↔ s.hazard = true ∨
        ∃ k < data.length, ∃ r ∈ inputRanges op s.latch ++ outputRanges op vis s.latch, AddrRange.contains r (addr.toNat + k) = true)

/-- 70_reset_and_hazards.md R227, R230; 20_memory.md R82: a host read sets the mark exactly when a byte of it lies in an output range of the
running command, or the mark was set before; any other read returns memory's bytes. That a command which
will fail validation protects the ranges of the formulas is log 12, and that the read always completes is log 20; a running illegal word
is in IdleHostAccess. -/
def Obligations.HostReadHazard : Prop :=
  ∀ (s : State) (rest : List Turn) (addr : Word) (len : Nat) (op : Op) (vis : Bool), s.seq = .busy →
    latchedCommand s.latch = some (op, vis) → s.agenda = .read addr len :: rest → ¬ inWindow s addr.toNat len →
    addr.toNat + len ≤ 2 ^ 32 →
    ∃ t, step s = .next t ∧ t.mem = s.mem ∧
      (t.hazard = true ↔ s.hazard = true ∨
        ∃ k < len, ∃ r ∈ outputRanges op vis s.latch, AddrRange.contains r (addr.toNat + k) = true) ∧
      ((∀ k < len, ∀ r ∈ outputRanges op vis s.latch, AddrRange.contains r (addr.toNat + k) = false) →
        t = { afterTurn s with hostData := s.mem.readBytes addr.toNat len })

/-- The host's memory accesses while no range is protected, because no command runs or the running command word is illegal and has no ranges
(log 12): plain reads and writes, with no hazard (70_reset_and_hazards.md R226, R227 need a range of a running command). That they always
complete is log 20. In every state an access past the end of the address space faults, be it a write, a read or a poll (log 16). -/
def Obligations.IdleHostAccess : Prop :=
  (∀ (s : State) (rest : List Turn) (addr : Word) (data : List Byte), s.seq = .idle ∨ latchedCommand s.latch = none →
    s.agenda = .write addr data :: rest → ¬ inWindow s addr.toNat data.length → addr.toNat + data.length ≤ 2 ^ 32 →
    step s = .next { afterTurn s with mem := s.mem.writeBytes addr.toNat data }) ∧
  (∀ (s : State) (rest : List Turn) (addr : Word) (len : Nat), s.seq = .idle ∨ latchedCommand s.latch = none →
    s.agenda = .read addr len :: rest → ¬ inWindow s addr.toNat len → addr.toNat + len ≤ 2 ^ 32 →
    step s = .next { afterTurn s with hostData := s.mem.readBytes addr.toNat len }) ∧
  (∀ (s : State) (rest : List Turn) (addr : Word) (data : List Byte), s.agenda = .write addr data :: rest →
    ¬ inWindow s addr.toNat data.length → 2 ^ 32 < addr.toNat + data.length → step s = .fault .beyondAddressSpace) ∧
  (∀ (s : State) (rest : List Turn) (addr : Word) (len : Nat), s.agenda = .read addr len :: rest →
    ¬ inWindow s addr.toNat len → 2 ^ 32 < addr.toNat + len → step s = .fault .beyondAddressSpace) ∧
  (∀ (s : State) (rest : List Turn) (addr mask value : Word), s.agenda = .poll addr mask value :: rest →
    ¬ inWindow s addr.toNat 4 → 2 ^ 32 < addr.toNat + 4 → step s = .fault .beyondAddressSpace)

/-- The model's choice of log 10 (70_reset_and_hazards.md R230 says the results are then unspecified): a valid, admitted command that was
touched completes with every output word free, changes no other byte, and sets no DEGEN unless it normalises. -/
def Obligations.TornCommandGivesFreeWords : Prop :=
  ∀ (s : State) (i : Instr) (op : Op) (vis : Bool), s.seq = .busy → s.mem.wf = true → commandOp i = some (op, vis) →
    validateOperands s.cfg op vis s.latch = none → allAdmitted s.cfg op vis s.latch = true → s.torn = true →
    ∃ t, exec i s = .next t ∧ OutputsFree op vis s t ∧ t.done = true ∧ t.seq = .idle ∧ t.torn = false ∧ t.hazard = s.hazard ∧
      (vis = false → op ≠ .normalize → t.degen = false) ∧
      ∀ a, outsideOutputs op vis s.latch a → t.mem.read a = s.mem.read a

/-! ### Whole-machine rules -/

/-- The invariant of `State.Inv` (10_state.md R40, R51; 60_exceptions.md R195) is kept by every step from every state that has it. -/
def Obligations.StepKeepsInvariant : Prop :=
  ∀ s t : State, s.Inv → step s = .next t → t.Inv

/-- The invariant holds at reset. -/
def Obligations.ResetMeetsInvariant : Prop := State.reset.Inv

/-- 20_memory.md R84: no step but a host's own memory write changes a byte outside the destination and visual ranges of the running command:
success, any error and reset included. -/
def Obligations.EngineWritesOnlyOutputs : Prop :=
  ∀ s t : State, step s = .next t →
    (∀ addr data, s.agenda.head? = some (.write addr data) → inWindow s addr.toNat data.length) →
    ∀ a, (∀ op vis, s.seq = .busy → latchedCommand s.latch = some (op, vis) → outsideOutputs op vis s.latch a) →
      t.mem.read a = s.mem.read a

/-- 10_state.md R32: STATUS.BUSY reads 1 exactly in state BUSY; the sequencer enters BUSY only on a START, and leaves it only through EXEC or
a reset. -/
def Obligations.SequencerChanges : Prop :=
  ∀ s t : State, step s = .next t →
    ((statusWord s).getLsbD 0 = true ↔ s.seq = .busy) ∧
    (s.seq = .idle → t.seq = .busy → ∃ v, writesCtrl s v ∧ v.getLsbD 0 = true ∧ v.getLsbD 1 = false) ∧
    (s.seq = .busy → t.seq = .idle → engineNext s ∨ s.agenda.head? = some .reset ∨ ∃ v, writesCtrl s v ∧ v.getLsbD 1 = true)

/-- 70_reset_and_hazards.md R230, 10_state.md R38: no step clears the HAZARD mark or the REFUSED mark, or changes a parameter. -/
def Obligations.MarksAndParametersLast : Prop :=
  ∀ s t : State, step s = .next t →
    t.cfg = s.cfg ∧ (s.hazard = true → t.hazard = true) ∧ (s.refused = true → t.refused = true)

/-- No step is refused, and a step faults only on a host access that runs past the address space (log 16). -/
def Obligations.OnlyHostAccessFaults : Prop :=
  ∀ s : State, (∃ t, step s = .next t) ∨
    (step s = .fault .beyondAddressSpace ∧
      ((∃ addr data, s.agenda.head? = some (.write addr data) ∧ 2 ^ 32 < addr.toNat + data.length) ∨
        (∃ addr len, s.agenda.head? = some (.read addr len) ∧ 2 ^ 32 < addr.toNat + len) ∨
        (∃ addr mask value, s.agenda.head? = some (.poll addr mask value) ∧ 2 ^ 32 < addr.toNat + 4)))

/-- A running command ends (70_reset_and_hazards.md R234), and a host that polls STATUS for BUSY = 0 sees it (30_encoding.md R98). R234 leaves
the time unbounded; the bounds are the model's choice: that the next step completes a command when no turn is waiting is logs 1 and 25,
and that a poll ends within three steps is log 19 (a failed read gives the engine a turn). -/
def Obligations.CommandTerminates : Prop :=
  (∀ s : State, s.seq = .busy → s.agenda = [] → ∃ t, step s = .next t ∧ t.seq = .idle) ∧
  (∀ s : State, s.cfg.wf = true → s.seq = .busy → s.agenda = [.poll (windowAddr s 0x014) 0x1 0x0] →
    ∃ t, Sys2Proof.core.run 3 s = .next t ∧ t.seq = .idle ∧ t.agenda = [] ∧ (t.done = true ∨ t.err = true))

/-! ### Numbers -/

/-- 00_scope.md R13: addition and subtraction. Finite values: rounded to nearest, ties to even, and an exact zero is -0.0 only when both terms
are negative zeros (the second one negated for a subtraction); infinities and NaN as in IEEE 754. Which NaN is log 7 and not stated. -/
def Obligations.AdditionRounds : Prop :=
  (∀ a b : F32, FiniteF32 a → FiniteF32 b →
    RoundsToF32 ((realValue a : ℝ) + realValue b) (fadd a b) ∧ RoundsToF32 ((realValue a : ℝ) - realValue b) (fsub a b) ∧
    (realValue a + realValue b = 0 → fadd a b = zero (sign a && sign b)) ∧
    (realValue a - realValue b = 0 → fsub a b = zero (sign a && !sign b))) ∧
  (∀ a b : F32, f32IsNaN a = true ∨ f32IsNaN b = true → f32IsNaN (fadd a b) = true ∧ f32IsNaN (fsub a b) = true) ∧
  (∀ (a : F32) (p : Bool), FiniteF32 a →
    fadd a (infinity p) = infinity p ∧ fadd (infinity p) a = infinity p ∧
    fsub a (infinity p) = infinity (!p) ∧ fsub (infinity p) a = infinity p) ∧
  (∀ p : Bool,
    fadd (infinity p) (infinity p) = infinity p ∧ f32IsNaN (fadd (infinity p) (infinity (!p))) = true ∧
    fsub (infinity p) (infinity (!p)) = infinity p ∧ f32IsNaN (fsub (infinity p) (infinity p)) = true)

/-- 00_scope.md R13: multiplication. Finite values: rounded to nearest, ties to even, and the sign of every result, a zero's too, is the
product of the signs; an infinity times a zero is NaN, as is any product with NaN (which NaN is log 7 and not stated). -/
def Obligations.MultiplicationRounds : Prop :=
  (∀ a b : F32, FiniteF32 a → FiniteF32 b →
    RoundsToF32 ((realValue a : ℝ) * realValue b) (fmul a b) ∧ sign (fmul a b) = (sign a != sign b)) ∧
  (∀ a b : F32, f32IsNaN a = true ∨ f32IsNaN b = true → f32IsNaN (fmul a b) = true) ∧
  (∀ (a : F32) (p : Bool), FiniteF32 a →
    (realValue a = 0 → f32IsNaN (fmul a (infinity p)) = true ∧ f32IsNaN (fmul (infinity p) a) = true) ∧
    (realValue a ≠ 0 → fmul a (infinity p) = infinity (sign a != p) ∧ fmul (infinity p) a = infinity (p != sign a))) ∧
  (∀ p q : Bool, fmul (infinity p) (infinity q) = infinity (p != q))

/-- 00_scope.md R13: division. Finite values by a non-zero one: rounded to nearest, ties to even, and the sign of every result, a zero's too, is
the quotient of the signs; by a zero: an infinity, or NaN for 0/0; infinities and NaN as in IEEE 754 (which NaN is log 7 and not stated). -/
def Obligations.DivisionRounds : Prop :=
  (∀ a b : F32, FiniteF32 a → FiniteF32 b → realValue b ≠ 0 →
    RoundsToF32 ((realValue a : ℝ) / realValue b) (fdiv a b) ∧ sign (fdiv a b) = (sign a != sign b)) ∧
  (∀ a b : F32, FiniteF32 a → FiniteF32 b → realValue b = 0 →
    (realValue a ≠ 0 → fdiv a b = infinity (sign a != sign b)) ∧ (realValue a = 0 → f32IsNaN (fdiv a b) = true)) ∧
  (∀ a b : F32, f32IsNaN a = true ∨ f32IsNaN b = true → f32IsNaN (fdiv a b) = true) ∧
  (∀ (a : F32) (p : Bool), FiniteF32 a →
    fdiv a (infinity p) = zero (sign a != p) ∧ fdiv (infinity p) a = infinity (p != sign a)) ∧
  (∀ p q : Bool, f32IsNaN (fdiv (infinity p) (infinity q)) = true)

/-- 00_scope.md R16: sat_u8: NaN and values at or below 0 give 0, values at or above 255 give 255, others are truncated; infinities by their
sign. -/
def Obligations.SaturationToByte : Prop :=
  ∀ a : F32,
    (f32IsNaN a = true → satU8 a = 0) ∧ satU8 0x7F800000 = 255 ∧ satU8 0xFF800000 = 0 ∧
    (FiniteF32 a → realValue a ≤ 0 → satU8 a = 0) ∧ (FiniteF32 a → 255 ≤ realValue a → satU8 a = 255) ∧
    (FiniteF32 a → 0 < realValue a → realValue a < 255 → (satU8 a).toNat = ⌊realValue a⌋₊)

/-- 00_scope.md R14: `a < b` on real values; false where either is NaN; the infinities bound every finite value; `fgt` is `flt` turned
round. -/
def Obligations.ComparisonIsRealOrder : Prop :=
  ∀ a b : F32,
    fgt a b = flt b a ∧
    (f32IsNaN a = true ∨ f32IsNaN b = true → flt a b = false) ∧
    (FiniteF32 a → FiniteF32 b → (flt a b = true ↔ realValue a < realValue b)) ∧
    (FiniteF32 a → flt a 0x7F800000 = true ∧ flt 0xFF800000 a = true ∧ flt 0x7F800000 a = false ∧ flt a 0xFF800000 = false) ∧
    flt 0xFF800000 0x7F800000 = true ∧ flt 0x7F800000 0x7F800000 = false ∧ flt 0xFF800000 0xFF800000 = false ∧
    flt 0x7F800000 0xFF800000 = false

/-- 00_scope.md R15: the conversion of a natural number up to 2^24 is exact; R8: `isqrt(n)` is the largest integer whose square is at
most n. -/
def Obligations.IntegerHelpersAreExact : Prop :=
  (∀ n : Nat, n ≤ 2 ^ 24 → FiniteF32 (f32OfNat n) ∧ realValue (f32OfNat n) = n) ∧ ∀ n : Nat, isqrt n = Nat.sqrt n

/-- 43_dct.md R161, 00_scope.md R17: where the two bounds of every entry of the first quarter round alike, every entry of the twiddle table is
the exact cosine rounded once (log 8 on that condition), and the zeros at N and 3N are +0.0. -/
def Obligations.TwiddleIsRoundedCosine : Prop :=
  ∀ N : Nat, 0 < N → N ≤ 65535 → (∀ m < N, quarterWaveDecided N m = true) →
    (∀ m < 4 * N, RoundsTo (Real.cos (Real.pi * m / (2 * N))) (twiddle N m)) ∧
    twiddle N N = 0x00000000 ∧ twiddle N (3 * N) = 0x00000000

/-- 43_dct.md R161, 00_scope.md R17: every entry of the scale table is the exact square root rounded once. -/
def Obligations.ScaleIsRoundedRoot : Prop :=
  ∀ N : Nat, 0 < N → N ≤ 65535 →
    RoundsTo (Real.sqrt (1 / N)) (scale N 0) ∧ ∀ k, 0 < k → RoundsTo (Real.sqrt (2 / N)) (scale N k)
end

