-- ==== Sys2Proof/Laws/Memory.lean ====
section
/-! SUPPORT. The laws of memory: a read after a write, what a write leaves alone, and that every operation keeps the canonical form. -/

namespace Sys2Proof.Machine

namespace Memory

@[simp] theorem wf_nil : Memory.wf [] = true := rfl

theorem wf_cons_iff {a : Nat} {b : Byte} {t : Memory} :
    Memory.wf ((a, b) :: t) = true ↔ a < 2 ^ 32 ∧ b ≠ memFill ∧ (∀ c ∈ t, a < c.1) ∧ Memory.wf t = true := by
  simp [Memory.wf, and_assoc]

theorem wf_tail {c : Host.Cell} {t : Memory} (h : Memory.wf (c :: t) = true) : Memory.wf t = true :=
  (wf_cons_iff.mp h).2.2.2

/-- An address below every listed one reads as unlisted. -/
theorem read_eq_fill_of_lt {m : Memory} {a : Nat} (h : ∀ c ∈ m, a < c.1) : m.read a = memFill := by
  induction m with
  | nil => rfl
  | cons c t ih =>
    have hc : c.1 ≠ a := by have := h c (by simp); omega
    simp [Memory.read, hc, ih fun d hd => h d (by simp [hd])]

theorem read_insertByte_self {m : Memory} (h : m.wf = true) (a : Nat) (b : Byte) : (m.insertByte a b).read a = b := by
  induction m with
  | nil => by_cases hb : b = memFill <;> simp [Memory.insertByte, Memory.read, hb]
  | cons c t ih =>
    obtain ⟨-, -, hlt, ht⟩ := wf_cons_iff.mp h
    rcases lt_trichotomy a c.1 with hac | hac | hac
    · by_cases hb : b = memFill
      · have : ∀ d ∈ c :: t, a < d.1 := by
          intro d hd
          rcases List.mem_cons.mp hd with rfl | hd
          · exact hac
          · exact hac.trans (hlt d hd)
        simp [Memory.insertByte, hac, hb, read_eq_fill_of_lt this]
      · simp [Memory.insertByte, Memory.read, hac, hb]
    · by_cases hb : b = memFill
      · subst hac
        simp [Memory.insertByte, hb, read_eq_fill_of_lt hlt]
      · simp [Memory.insertByte, Memory.read, hac, hb]
    · have h1 : ¬ a < c.1 := by omega
      have h2 : a ≠ c.1 := by omega
      simp [Memory.insertByte, Memory.read, h1, h2, h2.symm, ih ht]

theorem read_insertByte_of_ne (m : Memory) {a a' : Nat} (b : Byte) (hne : a' ≠ a) : (m.insertByte a b).read a' = m.read a' := by
  induction m with
  | nil => by_cases hb : b = memFill <;> simp [Memory.insertByte, Memory.read, hb, hne.symm]
  | cons c t ih =>
    rcases lt_trichotomy a c.1 with hac | hac | hac
    · by_cases hb : b = memFill <;> simp [Memory.insertByte, Memory.read, hac, hb, hne.symm]
    · by_cases hb : b = memFill <;> simp [Memory.insertByte, Memory.read, ← hac, hb, hne.symm]
    · have h1 : ¬ a < c.1 := by omega
      have h2 : a ≠ c.1 := by omega
      simp [Memory.insertByte, Memory.read, h1, h2, ih]

/-- Every listed address of the result was listed before or is the one written. -/
theorem mem_insertByte_fst {m : Memory} {a : Nat} {b : Byte} {c : Host.Cell} (h : c ∈ m.insertByte a b) :
    c.1 = a ∨ ∃ d ∈ m, d.1 = c.1 := by
  induction m with
  | nil =>
    by_cases hb : b = memFill <;> simp [Memory.insertByte, hb] at h
    simp [h]
  | cons d t ih =>
    simp only [Memory.insertByte] at h
    split at h
    · split at h
      · exact .inr ⟨c, h, rfl⟩
      · rcases List.mem_cons.mp h with rfl | h
        · exact .inl rfl
        · exact .inr ⟨c, h, rfl⟩
    · split at h
      · split at h
        · exact .inr ⟨c, by simp [h], rfl⟩
        · rcases List.mem_cons.mp h with rfl | h
          · exact .inl rfl
          · exact .inr ⟨c, by simp [h], rfl⟩
      · rcases List.mem_cons.mp h with rfl | h
        · exact .inr ⟨d, by simp, rfl⟩
        · rcases ih h with h' | ⟨e, he, hec⟩
          · exact .inl h'
          · exact .inr ⟨e, by simp [he], hec⟩

theorem wf_insertByte {m : Memory} (h : m.wf = true) {a : Nat} (ha : a < 2 ^ 32) (b : Byte) : (m.insertByte a b).wf = true := by
  induction m with
  | nil =>
    by_cases hb : b = memFill
    · simp [Memory.insertByte, hb]
    · simpa [Memory.insertByte, hb, wf_cons_iff] using ha
  | cons c t ih =>
    obtain ⟨hc, hd, hlt, ht⟩ := wf_cons_iff.mp h
    simp only [Memory.insertByte]
    split
    next hac =>
      split
      · exact h
      next hb =>
        refine wf_cons_iff.mpr ⟨ha, hb, ?_, h⟩
        intro d hd
        rcases List.mem_cons.mp hd with rfl | hd
        · exact hac
        · exact hac.trans (hlt d hd)
    next hac =>
      split
      next heq =>
        split
        · exact ht
        next hb => exact wf_cons_iff.mpr ⟨ha, hb, fun d hd => heq ▸ hlt d hd, ht⟩
      next hne =>
        refine wf_cons_iff.mpr ⟨hc, hd, ?_, ih ht⟩
        intro d hd
        rcases mem_insertByte_fst hd with h' | ⟨e, he, hed⟩
        · omega
        · exact hed ▸ hlt e he

theorem read_write_self {m : Memory} (h : m.wf = true) {a : Nat} (ha : a < 2 ^ 32) (b : Byte) : (m.write a b).read a = b := by
  rw [Memory.write, if_pos ha, read_insertByte_self h]

theorem read_write_of_ne (m : Memory) {a a' : Nat} (b : Byte) (hne : a' ≠ a) : (m.write a b).read a' = m.read a' := by
  unfold Memory.write
  split
  · exact read_insertByte_of_ne m b hne
  · rfl

theorem wf_write {m : Memory} (h : m.wf = true) (a : Nat) (b : Byte) : (m.write a b).wf = true := by
  unfold Memory.write
  split
  next ha => exact wf_insertByte h ha b
  · exact h

/-! ### Runs of bytes -/

theorem read_writeBytes_of_not_mem (m : Memory) (bs : List Byte) {a x : Nat} (h : x < a ∨ a + bs.length ≤ x) :
    (m.writeBytes a bs).read x = m.read x := by
  induction bs generalizing m a with
  | nil => rfl
  | cons b bs ih =>
    simp only [List.length_cons] at h
    simp only [Memory.writeBytes]
    rw [ih _ (by omega), read_write_of_ne _ _ (by omega)]

theorem wf_writeBytes {m : Memory} (h : m.wf = true) (a : Nat) (bs : List Byte) : (m.writeBytes a bs).wf = true := by
  induction bs generalizing m a with
  | nil => exact h
  | cons b bs ih => exact ih (wf_write h a b) (a + 1)

theorem read_writeBytes_of_lt {m : Memory} (h : m.wf = true) {a i : Nat} {bs : List Byte} (ha : a + i < 2 ^ 32)
    (hi : i < bs.length) : (m.writeBytes a bs).read (a + i) = bs[i] := by
  induction bs generalizing m a i with
  | nil => simp at hi
  | cons b bs ih =>
    simp only [List.length_cons] at hi
    simp only [Memory.writeBytes]
    cases i with
    | zero => rw [read_writeBytes_of_not_mem _ _ (by omega)]; simpa using read_write_self h (a := a) (by omega) b
    | succ i =>
      have := ih (wf_write h a b) (a := a + 1) (i := i) (by omega) (by omega)
      rw [show a + (i + 1) = a + 1 + i by omega]
      simpa using this

/-! ### Words -/

@[simp] theorem length_wordBytes (w : Word) : (wordBytes w).length = 4 := rfl

theorem wordOfBytes_wordBytes (w : Word) :
    wordOfBytes (w.extractLsb' 0 8) (w.extractLsb' 8 8) (w.extractLsb' 16 8) (w.extractLsb' 24 8) = w := by
  apply BitVec.eq_of_getLsbD_eq
  intro i hi
  simp only [wordOfBytes, BitVec.getLsbD_append, BitVec.getLsbD_extractLsb']
  rcases Nat.lt_or_ge i 8 with h1 | h1
  · simp [h1]
  rcases Nat.lt_or_ge i 16 with h2 | h2
  · have e : 8 + (i - 8) = i := by omega
    simp [show ¬ i < 8 by omega, show i - 8 < 8 by omega, e]
  rcases Nat.lt_or_ge i 24 with h3 | h3
  · have e : 16 + (i - 8 - 8) = i := by omega
    simp [show ¬ i < 8 by omega, show ¬ i - 8 < 8 by omega, show i - 8 - 8 < 8 by omega, e]
  · have e : 24 + (i - 8 - 8 - 8) = i := by omega
    simp [show ¬ i < 8 by omega, show ¬ i - 8 < 8 by omega, show ¬ i - 8 - 8 < 8 by omega,
      show i - 8 - 8 - 8 < 8 by omega, e]

theorem readWord_congr {m m' : Memory} {a : Nat} (h : ∀ i < 4, m.read (a + i) = m'.read (a + i)) :
    m.readWord a = m'.readWord a := by
  have h0 := h 0 (by omega)
  have h1 := h 1 (by omega)
  have h2 := h 2 (by omega)
  have h3 := h 3 (by omega)
  simp only [Nat.add_zero] at h0
  simp [Memory.readWord, h0, h1, h2, h3]

/-- Byte j of a word written. -/
theorem read_writeWord {m : Memory} (h : m.wf = true) {a j : Nat} (hj : j < 4) (ha : a + j < 2 ^ 32) (v : Word) :
    (m.writeWord a v).read (a + j) = v.extractLsb' (8 * j) 8 := by
  have := read_writeBytes_of_lt h ha (bs := wordBytes v) hj
  rw [Memory.writeWord, this]
  match j, hj with
  | 0, _ | 1, _ | 2, _ | 3, _ => rfl

theorem readWord_writeWord_self {m : Memory} (h : m.wf = true) {a : Nat} (ha : a + 4 ≤ 2 ^ 32) (v : Word) :
    (m.writeWord a v).readWord a = v := by
  have h0 := read_writeWord h (a := a) (j := 0) (by omega) (by omega) v
  have h1 := read_writeWord h (a := a) (j := 1) (by omega) (by omega) v
  have h2 := read_writeWord h (a := a) (j := 2) (by omega) (by omega) v
  have h3 := read_writeWord h (a := a) (j := 3) (by omega) (by omega) v
  simp only [Nat.add_zero, Nat.mul_zero, Nat.mul_one, Nat.reduceMul] at h0 h1 h2 h3
  simp [Memory.readWord, h0, h1, h2, h3, wordOfBytes_wordBytes]

theorem wf_writeWord {m : Memory} (h : m.wf = true) (a : Nat) (v : Word) : (m.writeWord a v).wf = true :=
  wf_writeBytes h a _

theorem read_writeWord_of_not_mem (m : Memory) {a x : Nat} (v : Word) (h : x < a ∨ a + 4 ≤ x) :
    (m.writeWord a v).read x = m.read x :=
  read_writeBytes_of_not_mem m (wordBytes v) (by simpa using h)

/-- Words written leave every byte outside them alone. -/
theorem read_writeWords_of_not_mem (m : Memory) (ws : List Word) {a x : Nat} (h : x < a ∨ a + 4 * ws.length ≤ x) :
    (m.writeWords a ws).read x = m.read x := by
  induction ws generalizing m a with
  | nil => rfl
  | cons w ws ih =>
    simp only [List.length_cons] at h
    simp only [Memory.writeWords]
    rw [ih _ (by omega), read_writeWord_of_not_mem _ _ (by omega)]

theorem wf_writeWords {m : Memory} (h : m.wf = true) (a : Nat) (ws : List Word) : (m.writeWords a ws).wf = true := by
  induction ws generalizing m a with
  | nil => exact h
  | cons w ws ih => exact ih (wf_writeWord h a w) (a + 4)

/-- Nothing written keeps the form wherever it would have been written. -/
@[simp] theorem writeWords_nil (m : Memory) (a : Nat) : m.writeWords a [] = m := rfl

theorem readWord_writeWords_of_disjoint (m : Memory) (ws : List Word) {a x : Nat} (h : x + 4 ≤ a ∨ a + 4 * ws.length ≤ x) :
    (m.writeWords a ws).readWord x = m.readWord x :=
  readWord_congr fun i hi => read_writeWords_of_not_mem m ws (by omega)

/-- Byte j of element i of words written. -/
theorem read_writeWords {m : Memory} (h : m.wf = true) {a i j : Nat} {ws : List Word} (hi : i < ws.length) (hj : j < 4)
    (ha : a + 4 * i + j < 2 ^ 32) : (m.writeWords a ws).read (a + 4 * i + j) = ws[i].extractLsb' (8 * j) 8 := by
  induction ws generalizing m a i with
  | nil => simp at hi
  | cons w ws ih =>
    simp only [List.length_cons] at hi
    simp only [Memory.writeWords]
    cases i with
    | zero =>
      rw [read_writeWords_of_not_mem _ _ (by omega)]
      simpa using read_writeWord h (a := a) hj (by omega) w
    | succ i =>
      have := ih (wf_writeWord h a w) (a := a + 4) (i := i) (by omega) (by omega)
      rw [show a + 4 * (i + 1) + j = a + 4 + 4 * i + j by omega]
      simpa using this

/-- The word at element i is the one written there. -/
theorem readWord_writeWords {m : Memory} (h : m.wf = true) {a i : Nat} {ws : List Word} (hi : i < ws.length)
    (ha : a + 4 * i + 4 ≤ 2 ^ 32) : (m.writeWords a ws).readWord (a + 4 * i) = ws[i] := by
  induction ws generalizing m a i with
  | nil => simp at hi
  | cons w ws ih =>
    simp only [List.length_cons] at hi
    simp only [Memory.writeWords]
    cases i with
    | zero =>
      rw [readWord_writeWords_of_disjoint _ _ (by omega)]
      simpa using readWord_writeWord_self h (a := a) (by omega) w
    | succ i =>
      have := ih (wf_writeWord h a w) (a := a + 4) (i := i) (by omega) (by omega)
      rw [show a + 4 * (i + 1) = a + 4 + 4 * i by omega]
      simpa using this

end Memory

end Sys2Proof.Machine
end

