-- ==== Sys2Proof/Laws/State.lean ====
section
/-! SUPPORT. What each update of the state does to each field, so that no later proof unfolds a record update. -/

namespace Sys2Proof.Machine

variable (s : State)

/-! ### clearAllFlags -/

@[simp] theorem clearAllFlags_cfg : (clearAllFlags s).cfg = s.cfg := rfl
@[simp] theorem clearAllFlags_params : (clearAllFlags s).params = s.params := rfl
@[simp] theorem clearAllFlags_latch : (clearAllFlags s).latch = s.latch := rfl
@[simp] theorem clearAllFlags_seq : (clearAllFlags s).seq = s.seq := rfl
@[simp] theorem clearAllFlags_irqEn : (clearAllFlags s).irqEn = s.irqEn := rfl
@[simp] theorem clearAllFlags_done : (clearAllFlags s).done = false := rfl
@[simp] theorem clearAllFlags_err : (clearAllFlags s).err = false := rfl
@[simp] theorem clearAllFlags_degen : (clearAllFlags s).degen = false := rfl
@[simp] theorem clearAllFlags_errcode : (clearAllFlags s).errcode = 0 := rfl
@[simp] theorem clearAllFlags_outW : (clearAllFlags s).outW = s.outW := rfl
@[simp] theorem clearAllFlags_outH : (clearAllFlags s).outH = s.outH := rfl
@[simp] theorem clearAllFlags_mem : (clearAllFlags s).mem = s.mem := rfl
@[simp] theorem clearAllFlags_hazard : (clearAllFlags s).hazard = s.hazard := rfl
@[simp] theorem clearAllFlags_refused : (clearAllFlags s).refused = s.refused := rfl
@[simp] theorem clearAllFlags_torn : (clearAllFlags s).torn = s.torn := rfl
@[simp] theorem clearAllFlags_draws : (clearAllFlags s).draws = s.draws := rfl
@[simp] theorem clearAllFlags_hostData : (clearAllFlags s).hostData = s.hostData := rfl
@[simp] theorem clearAllFlags_agenda : (clearAllFlags s).agenda = s.agenda := rfl

/-! ### clearFlags -/

@[simp] theorem clearFlags_cfg (d e g : Bool) : (clearFlags d e g s).cfg = s.cfg := rfl
@[simp] theorem clearFlags_params (d e g : Bool) : (clearFlags d e g s).params = s.params := rfl
@[simp] theorem clearFlags_latch (d e g : Bool) : (clearFlags d e g s).latch = s.latch := rfl
@[simp] theorem clearFlags_seq (d e g : Bool) : (clearFlags d e g s).seq = s.seq := rfl
@[simp] theorem clearFlags_irqEn (d e g : Bool) : (clearFlags d e g s).irqEn = s.irqEn := rfl
@[simp] theorem clearFlags_done (d e g : Bool) : (clearFlags d e g s).done = (s.done && !d) := rfl
@[simp] theorem clearFlags_err (d e g : Bool) : (clearFlags d e g s).err = (s.err && !e) := rfl
@[simp] theorem clearFlags_degen (d e g : Bool) : (clearFlags d e g s).degen = (s.degen && !g) := rfl
@[simp] theorem clearFlags_errcode (d e g : Bool) : (clearFlags d e g s).errcode = if e then 0 else s.errcode := rfl
@[simp] theorem clearFlags_outW (d e g : Bool) : (clearFlags d e g s).outW = s.outW := rfl
@[simp] theorem clearFlags_outH (d e g : Bool) : (clearFlags d e g s).outH = s.outH := rfl
@[simp] theorem clearFlags_mem (d e g : Bool) : (clearFlags d e g s).mem = s.mem := rfl
@[simp] theorem clearFlags_hazard (d e g : Bool) : (clearFlags d e g s).hazard = s.hazard := rfl
@[simp] theorem clearFlags_refused (d e g : Bool) : (clearFlags d e g s).refused = s.refused := rfl
@[simp] theorem clearFlags_torn (d e g : Bool) : (clearFlags d e g s).torn = s.torn := rfl
@[simp] theorem clearFlags_draws (d e g : Bool) : (clearFlags d e g s).draws = s.draws := rfl
@[simp] theorem clearFlags_hostData (d e g : Bool) : (clearFlags d e g s).hostData = s.hostData := rfl
@[simp] theorem clearFlags_agenda (d e g : Bool) : (clearFlags d e g s).agenda = s.agenda := rfl

/-! ### completeOk -/

@[simp] theorem completeOk_cfg (ow oh : Nat) (g : Bool) : (completeOk ow oh g s).cfg = s.cfg := rfl
@[simp] theorem completeOk_params (ow oh : Nat) (g : Bool) : (completeOk ow oh g s).params = s.params := rfl
@[simp] theorem completeOk_latch (ow oh : Nat) (g : Bool) : (completeOk ow oh g s).latch = s.latch := rfl
@[simp] theorem completeOk_seq (ow oh : Nat) (g : Bool) : (completeOk ow oh g s).seq = .idle := rfl
@[simp] theorem completeOk_irqEn (ow oh : Nat) (g : Bool) : (completeOk ow oh g s).irqEn = s.irqEn := rfl
@[simp] theorem completeOk_done (ow oh : Nat) (g : Bool) : (completeOk ow oh g s).done = true := rfl
@[simp] theorem completeOk_err (ow oh : Nat) (g : Bool) : (completeOk ow oh g s).err = s.err := rfl
@[simp] theorem completeOk_degen (ow oh : Nat) (g : Bool) : (completeOk ow oh g s).degen = g := rfl
@[simp] theorem completeOk_errcode (ow oh : Nat) (g : Bool) : (completeOk ow oh g s).errcode = s.errcode := rfl
@[simp] theorem completeOk_outW (ow oh : Nat) (g : Bool) : (completeOk ow oh g s).outW = BitVec.ofNat 32 ow := rfl
@[simp] theorem completeOk_outH (ow oh : Nat) (g : Bool) : (completeOk ow oh g s).outH = BitVec.ofNat 32 oh := rfl
@[simp] theorem completeOk_mem (ow oh : Nat) (g : Bool) : (completeOk ow oh g s).mem = s.mem := rfl
@[simp] theorem completeOk_hazard (ow oh : Nat) (g : Bool) : (completeOk ow oh g s).hazard = s.hazard := rfl
@[simp] theorem completeOk_refused (ow oh : Nat) (g : Bool) : (completeOk ow oh g s).refused = s.refused := rfl
@[simp] theorem completeOk_torn (ow oh : Nat) (g : Bool) : (completeOk ow oh g s).torn = false := rfl
@[simp] theorem completeOk_draws (ow oh : Nat) (g : Bool) : (completeOk ow oh g s).draws = s.draws := rfl
@[simp] theorem completeOk_hostData (ow oh : Nat) (g : Bool) : (completeOk ow oh g s).hostData = s.hostData := rfl
@[simp] theorem completeOk_agenda (ow oh : Nat) (g : Bool) : (completeOk ow oh g s).agenda = s.agenda := rfl

/-! ### completeError -/

@[simp] theorem completeError_cfg (e : CmdError) : (completeError e s).cfg = s.cfg := rfl
@[simp] theorem completeError_params (e : CmdError) : (completeError e s).params = s.params := rfl
@[simp] theorem completeError_latch (e : CmdError) : (completeError e s).latch = s.latch := rfl
@[simp] theorem completeError_seq (e : CmdError) : (completeError e s).seq = .idle := rfl
@[simp] theorem completeError_irqEn (e : CmdError) : (completeError e s).irqEn = s.irqEn := rfl
@[simp] theorem completeError_done (e : CmdError) : (completeError e s).done = false := rfl
@[simp] theorem completeError_err (e : CmdError) : (completeError e s).err = true := rfl
@[simp] theorem completeError_degen (e : CmdError) : (completeError e s).degen = false := rfl
@[simp] theorem completeError_errcode (e : CmdError) : (completeError e s).errcode = e.code := rfl
@[simp] theorem completeError_outW (e : CmdError) : (completeError e s).outW = 0 := rfl
@[simp] theorem completeError_outH (e : CmdError) : (completeError e s).outH = 0 := rfl
@[simp] theorem completeError_mem (e : CmdError) : (completeError e s).mem = s.mem := rfl
@[simp] theorem completeError_hazard (e : CmdError) : (completeError e s).hazard = s.hazard := rfl
@[simp] theorem completeError_refused (e : CmdError) : (completeError e s).refused = s.refused := rfl
@[simp] theorem completeError_torn (e : CmdError) : (completeError e s).torn = false := rfl
@[simp] theorem completeError_draws (e : CmdError) : (completeError e s).draws = s.draws := rfl
@[simp] theorem completeError_hostData (e : CmdError) : (completeError e s).hostData = s.hostData := rfl
@[simp] theorem completeError_agenda (e : CmdError) : (completeError e s).agenda = s.agenda := rfl

/-! ### markHazard -/

@[simp] theorem markHazard_cfg : (markHazard s).cfg = s.cfg := rfl
@[simp] theorem markHazard_params : (markHazard s).params = s.params := rfl
@[simp] theorem markHazard_latch : (markHazard s).latch = s.latch := rfl
@[simp] theorem markHazard_seq : (markHazard s).seq = s.seq := rfl
@[simp] theorem markHazard_irqEn : (markHazard s).irqEn = s.irqEn := rfl
@[simp] theorem markHazard_done : (markHazard s).done = s.done := rfl
@[simp] theorem markHazard_err : (markHazard s).err = s.err := rfl
@[simp] theorem markHazard_degen : (markHazard s).degen = s.degen := rfl
@[simp] theorem markHazard_errcode : (markHazard s).errcode = s.errcode := rfl
@[simp] theorem markHazard_outW : (markHazard s).outW = s.outW := rfl
@[simp] theorem markHazard_outH : (markHazard s).outH = s.outH := rfl
@[simp] theorem markHazard_mem : (markHazard s).mem = s.mem := rfl
@[simp] theorem markHazard_hazard : (markHazard s).hazard = true := rfl
@[simp] theorem markHazard_refused : (markHazard s).refused = s.refused := rfl
@[simp] theorem markHazard_torn : (markHazard s).torn = true := rfl
@[simp] theorem markHazard_draws : (markHazard s).draws = s.draws := rfl
@[simp] theorem markHazard_hostData : (markHazard s).hostData = s.hostData := rfl
@[simp] theorem markHazard_agenda : (markHazard s).agenda = s.agenda := rfl

/-! ### markRefused -/

@[simp] theorem markRefused_cfg : (markRefused s).cfg = s.cfg := rfl
@[simp] theorem markRefused_params : (markRefused s).params = s.params := rfl
@[simp] theorem markRefused_latch : (markRefused s).latch = s.latch := rfl
@[simp] theorem markRefused_seq : (markRefused s).seq = s.seq := rfl
@[simp] theorem markRefused_irqEn : (markRefused s).irqEn = s.irqEn := rfl
@[simp] theorem markRefused_done : (markRefused s).done = s.done := rfl
@[simp] theorem markRefused_err : (markRefused s).err = s.err := rfl
@[simp] theorem markRefused_degen : (markRefused s).degen = s.degen := rfl
@[simp] theorem markRefused_errcode : (markRefused s).errcode = s.errcode := rfl
@[simp] theorem markRefused_outW : (markRefused s).outW = s.outW := rfl
@[simp] theorem markRefused_outH : (markRefused s).outH = s.outH := rfl
@[simp] theorem markRefused_mem : (markRefused s).mem = s.mem := rfl
@[simp] theorem markRefused_hazard : (markRefused s).hazard = s.hazard := rfl
@[simp] theorem markRefused_refused : (markRefused s).refused = true := rfl
@[simp] theorem markRefused_torn : (markRefused s).torn = s.torn := rfl
@[simp] theorem markRefused_draws : (markRefused s).draws = s.draws := rfl
@[simp] theorem markRefused_hostData : (markRefused s).hostData = s.hostData := rfl
@[simp] theorem markRefused_agenda : (markRefused s).agenda = s.agenda := rfl

/-! ### returnFree -/

@[simp] theorem returnFree_cfg (n : Nat) : (returnFree n s).cfg = s.cfg := rfl
@[simp] theorem returnFree_params (n : Nat) : (returnFree n s).params = s.params := rfl
@[simp] theorem returnFree_latch (n : Nat) : (returnFree n s).latch = s.latch := rfl
@[simp] theorem returnFree_seq (n : Nat) : (returnFree n s).seq = s.seq := rfl
@[simp] theorem returnFree_irqEn (n : Nat) : (returnFree n s).irqEn = s.irqEn := rfl
@[simp] theorem returnFree_done (n : Nat) : (returnFree n s).done = s.done := rfl
@[simp] theorem returnFree_err (n : Nat) : (returnFree n s).err = s.err := rfl
@[simp] theorem returnFree_degen (n : Nat) : (returnFree n s).degen = s.degen := rfl
@[simp] theorem returnFree_errcode (n : Nat) : (returnFree n s).errcode = s.errcode := rfl
@[simp] theorem returnFree_outW (n : Nat) : (returnFree n s).outW = s.outW := rfl
@[simp] theorem returnFree_outH (n : Nat) : (returnFree n s).outH = s.outH := rfl
@[simp] theorem returnFree_mem (n : Nat) : (returnFree n s).mem = s.mem := rfl
@[simp] theorem returnFree_hazard (n : Nat) : (returnFree n s).hazard = s.hazard := rfl
@[simp] theorem returnFree_refused (n : Nat) : (returnFree n s).refused = s.refused := rfl
@[simp] theorem returnFree_torn (n : Nat) : (returnFree n s).torn = s.torn := rfl
@[simp] theorem returnFree_draws (n : Nat) : (returnFree n s).draws = s.draws + n := rfl
@[simp] theorem returnFree_hostData (n : Nat) : (returnFree n s).hostData = freeBytes s.draws n := rfl
@[simp] theorem returnFree_agenda (n : Nat) : (returnFree n s).agenda = s.agenda := rfl

/-! ### again -/

@[simp] theorem again_cfg (t : Turn) : (again t s).cfg = s.cfg := rfl
@[simp] theorem again_params (t : Turn) : (again t s).params = s.params := rfl
@[simp] theorem again_latch (t : Turn) : (again t s).latch = s.latch := rfl
@[simp] theorem again_seq (t : Turn) : (again t s).seq = s.seq := rfl
@[simp] theorem again_irqEn (t : Turn) : (again t s).irqEn = s.irqEn := rfl
@[simp] theorem again_done (t : Turn) : (again t s).done = s.done := rfl
@[simp] theorem again_err (t : Turn) : (again t s).err = s.err := rfl
@[simp] theorem again_degen (t : Turn) : (again t s).degen = s.degen := rfl
@[simp] theorem again_errcode (t : Turn) : (again t s).errcode = s.errcode := rfl
@[simp] theorem again_outW (t : Turn) : (again t s).outW = s.outW := rfl
@[simp] theorem again_outH (t : Turn) : (again t s).outH = s.outH := rfl
@[simp] theorem again_mem (t : Turn) : (again t s).mem = s.mem := rfl
@[simp] theorem again_hazard (t : Turn) : (again t s).hazard = s.hazard := rfl
@[simp] theorem again_refused (t : Turn) : (again t s).refused = s.refused := rfl
@[simp] theorem again_torn (t : Turn) : (again t s).torn = s.torn := rfl
@[simp] theorem again_draws (t : Turn) : (again t s).draws = s.draws := rfl
@[simp] theorem again_hostData (t : Turn) : (again t s).hostData = s.hostData := rfl
@[simp] theorem again_agenda (t : Turn) : (again t s).agenda = .engine :: t :: s.agenda := rfl

/-! ### scrambleOutputs -/

@[simp] theorem scrambleOutputs_cfg (op : Op) (vis : Bool) : (scrambleOutputs op vis s).cfg = s.cfg := rfl
@[simp] theorem scrambleOutputs_params (op : Op) (vis : Bool) : (scrambleOutputs op vis s).params = s.params := rfl
@[simp] theorem scrambleOutputs_latch (op : Op) (vis : Bool) : (scrambleOutputs op vis s).latch = s.latch := rfl
@[simp] theorem scrambleOutputs_seq (op : Op) (vis : Bool) : (scrambleOutputs op vis s).seq = s.seq := rfl
@[simp] theorem scrambleOutputs_irqEn (op : Op) (vis : Bool) : (scrambleOutputs op vis s).irqEn = s.irqEn := rfl
@[simp] theorem scrambleOutputs_done (op : Op) (vis : Bool) : (scrambleOutputs op vis s).done = s.done := rfl
@[simp] theorem scrambleOutputs_err (op : Op) (vis : Bool) : (scrambleOutputs op vis s).err = s.err := rfl
@[simp] theorem scrambleOutputs_degen (op : Op) (vis : Bool) : (scrambleOutputs op vis s).degen = s.degen := rfl
@[simp] theorem scrambleOutputs_errcode (op : Op) (vis : Bool) : (scrambleOutputs op vis s).errcode = s.errcode := rfl
@[simp] theorem scrambleOutputs_outW (op : Op) (vis : Bool) : (scrambleOutputs op vis s).outW = s.outW := rfl
@[simp] theorem scrambleOutputs_outH (op : Op) (vis : Bool) : (scrambleOutputs op vis s).outH = s.outH := rfl
@[simp] theorem scrambleOutputs_hazard (op : Op) (vis : Bool) : (scrambleOutputs op vis s).hazard = s.hazard := rfl
@[simp] theorem scrambleOutputs_refused (op : Op) (vis : Bool) : (scrambleOutputs op vis s).refused = s.refused := rfl
@[simp] theorem scrambleOutputs_torn (op : Op) (vis : Bool) : (scrambleOutputs op vis s).torn = s.torn := rfl
@[simp] theorem scrambleOutputs_hostData (op : Op) (vis : Bool) : (scrambleOutputs op vis s).hostData = s.hostData := rfl
@[simp] theorem scrambleOutputs_agenda (op : Op) (vis : Bool) : (scrambleOutputs op vis s).agenda = s.agenda := rfl

/-! ### startCommand -/

@[simp] theorem startCommand_cfg : (startCommand s).cfg = s.cfg := by unfold startCommand; split <;> rfl
@[simp] theorem startCommand_params : (startCommand s).params = s.params := by unfold startCommand; split <;> rfl
@[simp] theorem startCommand_irqEn : (startCommand s).irqEn = s.irqEn := by unfold startCommand; split <;> rfl
@[simp] theorem startCommand_outW : (startCommand s).outW = s.outW := by unfold startCommand; split <;> rfl
@[simp] theorem startCommand_outH : (startCommand s).outH = s.outH := by unfold startCommand; split <;> rfl
@[simp] theorem startCommand_mem : (startCommand s).mem = s.mem := by unfold startCommand; split <;> rfl
@[simp] theorem startCommand_hazard : (startCommand s).hazard = s.hazard := by unfold startCommand; split <;> rfl
@[simp] theorem startCommand_refused : (startCommand s).refused = s.refused := by unfold startCommand; split <;> rfl
@[simp] theorem startCommand_draws : (startCommand s).draws = s.draws := by unfold startCommand; split <;> rfl
@[simp] theorem startCommand_hostData : (startCommand s).hostData = s.hostData := by unfold startCommand; split <;> rfl
@[simp] theorem startCommand_agenda : (startCommand s).agenda = s.agenda := by unfold startCommand; split <;> rfl

@[simp] theorem startCommand_seq : (startCommand s).seq = .busy := by unfold startCommand; split <;> simp_all

/-! ### abortCommand and resetBlock -/

/-- An abort changes memory and the count of free words only. -/
theorem abortCommand_frame : abortCommand s = { s with mem := (abortCommand s).mem, draws := (abortCommand s).draws } := by
  unfold abortCommand; split
  · rfl
  · split <;> rfl

@[simp] theorem abortCommand_cfg : (abortCommand s).cfg = s.cfg := by rw [abortCommand_frame]
@[simp] theorem abortCommand_params : (abortCommand s).params = s.params := by rw [abortCommand_frame]
@[simp] theorem abortCommand_latch : (abortCommand s).latch = s.latch := by rw [abortCommand_frame]
@[simp] theorem abortCommand_seq : (abortCommand s).seq = s.seq := by rw [abortCommand_frame]
@[simp] theorem abortCommand_irqEn : (abortCommand s).irqEn = s.irqEn := by rw [abortCommand_frame]
@[simp] theorem abortCommand_done : (abortCommand s).done = s.done := by rw [abortCommand_frame]
@[simp] theorem abortCommand_err : (abortCommand s).err = s.err := by rw [abortCommand_frame]
@[simp] theorem abortCommand_degen : (abortCommand s).degen = s.degen := by rw [abortCommand_frame]
@[simp] theorem abortCommand_errcode : (abortCommand s).errcode = s.errcode := by rw [abortCommand_frame]
@[simp] theorem abortCommand_outW : (abortCommand s).outW = s.outW := by rw [abortCommand_frame]
@[simp] theorem abortCommand_outH : (abortCommand s).outH = s.outH := by rw [abortCommand_frame]
@[simp] theorem abortCommand_hazard : (abortCommand s).hazard = s.hazard := by rw [abortCommand_frame]
@[simp] theorem abortCommand_refused : (abortCommand s).refused = s.refused := by rw [abortCommand_frame]
@[simp] theorem abortCommand_torn : (abortCommand s).torn = s.torn := by rw [abortCommand_frame]
@[simp] theorem abortCommand_hostData : (abortCommand s).hostData = s.hostData := by rw [abortCommand_frame]
@[simp] theorem abortCommand_agenda : (abortCommand s).agenda = s.agenda := by rw [abortCommand_frame]

@[simp] theorem resetBlock_cfg : (resetBlock s).cfg = s.cfg := abortCommand_cfg s
@[simp] theorem resetBlock_params : (resetBlock s).params = Params.zero := rfl
@[simp] theorem resetBlock_latch : (resetBlock s).latch = Params.zero := rfl
@[simp] theorem resetBlock_seq : (resetBlock s).seq = .idle := rfl
@[simp] theorem resetBlock_irqEn : (resetBlock s).irqEn = false := rfl
@[simp] theorem resetBlock_done : (resetBlock s).done = false := rfl
@[simp] theorem resetBlock_err : (resetBlock s).err = false := rfl
@[simp] theorem resetBlock_degen : (resetBlock s).degen = false := rfl
@[simp] theorem resetBlock_errcode : (resetBlock s).errcode = 0 := rfl
@[simp] theorem resetBlock_outW : (resetBlock s).outW = 0 := rfl
@[simp] theorem resetBlock_outH : (resetBlock s).outH = 0 := rfl
@[simp] theorem resetBlock_mem : (resetBlock s).mem = (abortCommand s).mem := rfl
@[simp] theorem resetBlock_hazard : (resetBlock s).hazard = s.hazard := abortCommand_hazard s
@[simp] theorem resetBlock_refused : (resetBlock s).refused = s.refused := abortCommand_refused s
@[simp] theorem resetBlock_torn : (resetBlock s).torn = false := rfl
@[simp] theorem resetBlock_draws : (resetBlock s).draws = (abortCommand s).draws := rfl
@[simp] theorem resetBlock_hostData : (resetBlock s).hostData = s.hostData := abortCommand_hostData s
@[simp] theorem resetBlock_agenda : (resetBlock s).agenda = s.agenda := abortCommand_agenda s

/-! ### writeParam and the parameter registers -/

@[simp] theorem writeParam_cfg (r : ParamReg) (v : Word) : (writeParam r v s).cfg = s.cfg := by unfold writeParam; split <;> rfl
@[simp] theorem writeParam_latch (r : ParamReg) (v : Word) : (writeParam r v s).latch = s.latch := by unfold writeParam; split <;> rfl
@[simp] theorem writeParam_seq (r : ParamReg) (v : Word) : (writeParam r v s).seq = s.seq := by unfold writeParam; split <;> rfl
@[simp] theorem writeParam_irqEn (r : ParamReg) (v : Word) : (writeParam r v s).irqEn = s.irqEn := by unfold writeParam; split <;> rfl
@[simp] theorem writeParam_done (r : ParamReg) (v : Word) : (writeParam r v s).done = s.done := by unfold writeParam; split <;> rfl
@[simp] theorem writeParam_err (r : ParamReg) (v : Word) : (writeParam r v s).err = s.err := by unfold writeParam; split <;> rfl
@[simp] theorem writeParam_degen (r : ParamReg) (v : Word) : (writeParam r v s).degen = s.degen := by unfold writeParam; split <;> rfl
@[simp] theorem writeParam_errcode (r : ParamReg) (v : Word) : (writeParam r v s).errcode = s.errcode := by unfold writeParam; split <;> rfl
@[simp] theorem writeParam_outW (r : ParamReg) (v : Word) : (writeParam r v s).outW = s.outW := by unfold writeParam; split <;> rfl
@[simp] theorem writeParam_outH (r : ParamReg) (v : Word) : (writeParam r v s).outH = s.outH := by unfold writeParam; split <;> rfl
@[simp] theorem writeParam_mem (r : ParamReg) (v : Word) : (writeParam r v s).mem = s.mem := by unfold writeParam; split <;> rfl
@[simp] theorem writeParam_hazard (r : ParamReg) (v : Word) : (writeParam r v s).hazard = s.hazard := by unfold writeParam; split <;> rfl
@[simp] theorem writeParam_refused (r : ParamReg) (v : Word) : (writeParam r v s).refused = s.refused := by unfold writeParam; split <;> rfl
@[simp] theorem writeParam_torn (r : ParamReg) (v : Word) : (writeParam r v s).torn = s.torn := by unfold writeParam; split <;> rfl
@[simp] theorem writeParam_draws (r : ParamReg) (v : Word) : (writeParam r v s).draws = s.draws := by unfold writeParam; split <;> rfl
@[simp] theorem writeParam_hostData (r : ParamReg) (v : Word) : (writeParam r v s).hostData = s.hostData := by unfold writeParam; split <;> rfl
@[simp] theorem writeParam_agenda (r : ParamReg) (v : Word) : (writeParam r v s).agenda = s.agenda := by unfold writeParam; split <;> rfl

@[simp] theorem Params.get_set (p : Params) (r : ParamReg) (v : Word) : (p.set r v).get r = v := by cases r <;> rfl

theorem Params.get_set_of_ne (p : Params) {r q : ParamReg} (v : Word) (h : q ≠ r) : (p.set r v).get q = p.get q := by
  cases r <;> cases q <;> first | rfl | exact absurd rfl h

end Sys2Proof.Machine
end

