-- ==== Sys2Proof/Laws/Ops.lean ====
section
/-! SUPPORT. What each shared operation can do, said once. -/

namespace Sys2Proof.Machine

/-! ### Grids and worker lines -/

theorem grid_succ {α : Type} (cols rows : Nat) (f : Nat → Nat → α) :
    grid cols (rows + 1) f = grid cols rows f ++ (List.range cols).map fun x => f x rows := by
  simp [grid, List.range_succ]

@[simp] theorem length_grid {α : Type} (cols rows : Nat) (f : Nat → Nat → α) : (grid cols rows f).length = rows * cols := by
  induction rows with
  | zero => simp [grid]
  | succ n ih => simp [grid_succ, ih, Nat.succ_mul]

theorem grid_index_lt {cols rows x y : Nat} (hx : x < cols) (hy : y < rows) : y * cols + x < rows * cols := by
  have : (y + 1) * cols ≤ rows * cols := Nat.mul_le_mul_right _ hy
  rw [Nat.succ_mul] at this
  omega

/-- Element `y * cols + x` of a grid is the value at (x, y). -/
theorem getElem_grid {α : Type} {cols rows x y : Nat} (f : Nat → Nat → α) (hx : x < cols) (hy : y < rows) :
    (grid cols rows f)[y * cols + x]'(by simpa using grid_index_lt hx hy) = f x y := by
  induction rows with
  | zero => omega
  | succ n ih =>
    rcases Nat.lt_or_ge y n with h | h
    · simp only [grid_succ]
      rw [List.getElem_append_left (by simpa using grid_index_lt hx h)]
      exact ih h
    · obtain rfl : y = n := by omega
      simp only [grid_succ]
      rw [List.getElem_append_right (by simp)]
      simp

/-- The lines of the first workers are the first lines, in order: the ranges of 43_dct.md R171 are contiguous and disjoint. -/
theorem flatMap_workerLines (p r k : Nat) :
    (List.range k).flatMap (workerLines p r) = List.range (k * r / p) := by
  induction k with
  | zero => simp
  | succ k ih =>
    have hle : k * r / p ≤ (k + 1) * r / p := Nat.div_le_div_right (Nat.mul_le_mul_right r (Nat.le_succ k))
    obtain ⟨d, hd⟩ := Nat.exists_eq_add_of_le hle
    rw [List.range_succ, List.flatMap_append, ih]
    simp only [List.flatMap_cons, List.flatMap_nil, List.append_nil, workerLines]
    rw [hd, List.range_add]
    simp

/-- With at least one worker a pass computes every line once, in order, whatever their number (43_dct.md R175). -/
theorem fanOut_eq {α : Type} {p : Nat} (hp : 0 < p) (r : Nat) (line : Nat → α) :
    fanOut p r line = (List.range r).map line := by
  have h := flatMap_workerLines p r p
  rw [Nat.mul_div_cancel_left r hp] at h
  rw [fanOut, ← h, List.map_flatMap]

/-- Even a configuration with no worker writes no more lines than there are. -/
theorem length_fanOut_le {α : Type} (p r : Nat) (line : Nat → α) : (fanOut p r line).length ≤ r := by
  rcases Nat.eq_zero_or_pos p with rfl | hp
  · simp [fanOut]
  · simp [fanOut_eq hp]

/-! ### Validation -/

/-- A command passes validation exactly when every check passes (40_command_control.md R123). -/
theorem validateOperands_eq_none {c : Config} {op : Op} {vis : Bool} {l : Params} :
    validateOperands c op vis l = none ↔
      dimBad c l = false ∧ kernelBad c op l = false ∧ alignBad op vis l = false ∧ addrBad op vis l = false := by
  simp only [validateOperands]
  cases dimBad c l <;> cases kernelBad c op l <;> cases alignBad op vis l <;> cases addrBad op vis l <;> simp

/-- What the address check of a valid command guarantees: no range passes 2^32 (20_memory.md R70) and no output shares a byte with an
input or another output (R71). -/
theorem ranges_of_valid {c : Config} {op : Op} {vis : Bool} {l : Params} (h : validateOperands c op vis l = none) :
    (∀ r ∈ inputRanges op l ++ outputRanges op vis l, r.hi ≤ 2 ^ 32) ∧
      (∀ r ∈ inputRanges op l, AddrRange.overlaps (dstRange op l) r = false) ∧
      (vis = true → AddrRange.overlaps (visRange l) (sourceRange l) = false ∧
        AddrRange.overlaps (visRange l) (dstRange op l) = false) := by
  obtain ⟨-, -, -, ha⟩ := validateOperands_eq_none.mp h
  simp only [addrBad, Bool.or_eq_false_iff, List.any_eq_false, Bool.and_eq_false_iff] at ha
  obtain ⟨⟨h1, h2⟩, h3⟩ := ha
  refine ⟨fun r hr => by simpa using h1 r hr, fun r hr => by simpa using h2 r hr, fun hv => ?_⟩
  rcases h3 with h3 | h3
  · simp [hv] at h3
  · exact h3

theorem dst_bound_of_valid {c : Config} {op : Op} {vis : Bool} {l : Params} (h : validateOperands c op vis l = none) :
    l.dstAddr.toNat + 4 * (outWidth op l * outHeight op l) ≤ 2 ^ 32 :=
  (ranges_of_valid h).1 (dstRange op l) (by simp [outputRanges])

theorem vis_bound_of_valid {c : Config} {op : Op} {l : Params} (h : validateOperands c op true l = none) :
    l.visAddr.toNat + 4 * (l.width.toNat * l.height.toNat) ≤ 2 ^ 32 :=
  (ranges_of_valid h).1 (visRange l) (by simp [outputRanges])

/-! ### Storing outputs -/

theorem AddrRange.contains_eq_false {r : AddrRange} {a : Nat} : AddrRange.contains r a = false ↔ a < r.lo ∨ r.hi ≤ a := by
  simp [AddrRange.contains, or_iff_not_imp_left]

/-- Destination and visual words written change no byte outside the output ranges. -/
theorem read_outputs_of_outside (m : Memory) {op : Op} {vis : Bool} {l : Params} {dst out : List Word} {a : Nat}
    (hd : dst.length ≤ outWidth op l * outHeight op l) (hv : out.length ≤ visCount vis l)
    (ha : outsideOutputs op vis l a) :
    ((m.writeWords l.dstAddr.toNat dst).writeWords l.visAddr.toNat out).read a = m.read a := by
  have h1 := ha (dstRange op l) (by simp [outputRanges])
  simp only [AddrRange.contains_eq_false, dstRange, elementRange] at h1
  have hdst : a < l.dstAddr.toNat ∨ l.dstAddr.toNat + 4 * dst.length ≤ a := by omega
  have hvis : a < l.visAddr.toNat ∨ l.visAddr.toNat + 4 * out.length ≤ a := by
    cases vis with
    | false => simp [visCount] at hv; simp [hv]; omega
    | true =>
      have h2 := ha (visRange l) (by simp [outputRanges])
      simp only [AddrRange.contains_eq_false, visRange, elementRange] at h2
      simp only [visCount, if_true] at hv
      omega
  rw [Memory.read_writeWords_of_not_mem _ _ hvis, Memory.read_writeWords_of_not_mem _ _ hdst]

@[simp] theorem length_freeWords (k n : Nat) : (freeWords k n).length = n := by simp [freeWords]

@[simp] theorem getElem_freeWords (k n i : Nat) (hi : i < (freeWords k n).length) :
    (freeWords k n)[i] = Config.freeWord (k + i) := by simp [freeWords]

theorem scrambleOutputs_mem (op : Op) (vis : Bool) (s : State) :
    (scrambleOutputs op vis s).mem =
      (s.mem.writeWords s.latch.dstAddr.toNat (freeWords s.draws (outWidth op s.latch * outHeight op s.latch))).writeWords
        s.latch.visAddr.toNat
        (freeWords (s.draws + outWidth op s.latch * outHeight op s.latch) (visCount vis s.latch)) := rfl

/-- Free words land in the output ranges only (20_memory.md R83, R84). -/
theorem scrambleOutputs_read_of_outside (s : State) {op : Op} {vis : Bool} {a : Nat} (ha : outsideOutputs op vis s.latch a) :
    (scrambleOutputs op vis s).mem.read a = s.mem.read a := by
  rw [scrambleOutputs_mem]
  exact read_outputs_of_outside s.mem (by simp) (by simp) ha

theorem scrambleOutputs_wf {s : State} (hm : s.mem.wf = true) (op : Op) (vis : Bool) :
    (scrambleOutputs op vis s).mem.wf = true := by
  rw [scrambleOutputs_mem]
  exact Memory.wf_writeWords (Memory.wf_writeWords hm _ _) _ _

/-! ### EXEC -/

/-- Everything EXEC of a legal command can do (40_command_control.md R110). -/
theorem execCommand_cases (op : Op) (vis : Bool) (compute : Config → Params → Memory → Result) (s : State) :
    (s.seq = .idle ∧ execCommand op vis compute s = s) ∨
    (∃ e, s.seq = .busy ∧ validateOperands s.cfg op vis s.latch = some e ∧ execCommand op vis compute s = completeError e s) ∨
    (s.seq = .busy ∧ validateOperands s.cfg op vis s.latch = none ∧ allAdmitted s.cfg op vis s.latch = false ∧
      execCommand op vis compute s = completeError .bus (scrambleOutputs op vis s)) ∨
    (s.seq = .busy ∧ validateOperands s.cfg op vis s.latch = none ∧ allAdmitted s.cfg op vis s.latch = true ∧ s.torn = true ∧
      execCommand op vis compute s = storeTorn op vis s) ∨
    (Running op vis s ∧ execCommand op vis compute s = storeResult op (compute s.cfg s.latch s.mem) s) := by
  cases hs : s.seq with
  | idle => exact .inl ⟨rfl, by simp [execCommand, hs]⟩
  | busy =>
    refine .inr ?_
    cases hv : validateOperands s.cfg op vis s.latch with
    | some e => exact .inl ⟨e, rfl, rfl, by simp [execCommand, hs, hv]⟩
    | none =>
      refine .inr ?_
      cases ha : allAdmitted s.cfg op vis s.latch with
      | false => exact .inl ⟨rfl, rfl, rfl, by simp [execCommand, hs, hv, ha]⟩
      | true =>
        refine .inr ?_
        cases ht : s.torn with
        | true => exact .inl ⟨rfl, rfl, rfl, rfl, by simp [execCommand, hs, hv, ha, ht]⟩
        | false => exact .inr ⟨⟨hs, hv, ha, ht⟩, by simp [execCommand, hs, hv, ha, ht]⟩

/-- A running command stores its result. -/
theorem execCommand_of_running {op : Op} {vis : Bool} {s : State} (h : Running op vis s)
    (compute : Config → Params → Memory → Result) :
    execCommand op vis compute s = storeResult op (compute s.cfg s.latch s.mem) s := by
  simp [execCommand, h.busy, h.valid, h.admitted, h.untorn]

/-- Storing a result of the right size completes the command and changes nothing else. -/
theorem storeResult_completed (s : State) {op : Op} {vis : Bool} {r : Result}
    (hd : r.dst.length ≤ outWidth op s.latch * outHeight op s.latch) (hv : r.vis.length ≤ visCount vis s.latch) :
    Completed op vis s (storeResult op r s) :=
  ⟨rfl, fun _ ha => read_outputs_of_outside s.mem hd hv ha⟩

/-! ### START, reset and abort -/

/-- Everything `start()` can do (40_command_control.md R107, R108). -/
theorem startCommand_cases (s : State) :
    (s.seq = .busy ∧ startCommand s = s) ∨
    (s.seq = .idle ∧ startCommand s =
      { s with done := false, err := false, degen := false, errcode := 0, latch := s.params, seq := .busy, torn := false }) := by
  cases hs : s.seq with
  | busy => exact .inl ⟨rfl, by simp [startCommand, hs]⟩
  | idle => exact .inr ⟨rfl, by simp [startCommand, hs, clearAllFlags]⟩

/-- An abort changes nothing, or makes the outputs of the latched command free (70_reset_and_hazards.md R222). -/
theorem abortCommand_cases (s : State) :
    (abortCommand s = s ∧ (s.seq = .idle ∨ latchedCommand s.latch = none)) ∨
    ∃ op vis, s.seq = .busy ∧ latchedCommand s.latch = some (op, vis) ∧ abortCommand s = scrambleOutputs op vis s := by
  cases hs : s.seq with
  | idle => exact .inl ⟨by simp [abortCommand, hs], .inl rfl⟩
  | busy =>
    cases hl : latchedCommand s.latch with
    | none => exact .inl ⟨by simp [abortCommand, hs, hl], .inr rfl⟩
    | some ov => exact .inr ⟨ov.1, ov.2, rfl, rfl, by simp [abortCommand, hs, hl]⟩

theorem resetBlock_wf {s : State} (hm : s.mem.wf = true) : (resetBlock s).mem.wf = true := by
  rw [resetBlock_mem]
  rcases abortCommand_cases s with ⟨h, -⟩ | ⟨op, vis, -, -, h⟩
  · rwa [h]
  · rw [h]
    exact scrambleOutputs_wf hm op vis

/-! ### Host accesses -/

/-- Everything a host read of memory can do. -/
theorem hostMemRead_cases (addr len : Nat) (s : State) :
    (2 ^ 32 < addr + len ∧ hostMemRead addr len s = .fault .beyondAddressSpace) ∨
    (addr + len ≤ 2 ^ 32 ∧ touches addr len (protectedFromReads s) = true ∧
      hostMemRead addr len s = .next (returnFree len (markHazard s))) ∨
    (addr + len ≤ 2 ^ 32 ∧ touches addr len (protectedFromReads s) = false ∧
      hostMemRead addr len s = .next { s with hostData := s.mem.readBytes addr len }) := by
  rcases Nat.lt_or_ge (2 ^ 32) (addr + len) with h | h
  · exact .inl ⟨h, by simp only [hostMemRead, h, if_true]⟩
  · have h' : ¬ 2 ^ 32 < addr + len := Nat.not_lt.mpr h
    cases ht : touches addr len (protectedFromReads s)
    · exact .inr (.inr ⟨h, rfl, by simp only [hostMemRead, h', if_false, ht, Bool.false_eq_true]⟩)
    · exact .inr (.inl ⟨h, rfl, by simp only [hostMemRead, h', if_false, ht, if_true]⟩)

/-- Everything a host write of memory can do: the bytes land, and inside the running command's ranges the mark is set. -/
theorem hostMemWrite_cases (addr : Nat) (data : List Byte) (s : State) :
    (2 ^ 32 < addr + data.length ∧ hostMemWrite addr data s = .fault .beyondAddressSpace) ∨
    (addr + data.length ≤ 2 ^ 32 ∧ ∃ b, b = touches addr data.length (protectedFromWrites s) ∧
      hostMemWrite addr data s = .next { s with
        hazard := s.hazard || b
        torn := s.torn || b
        mem := s.mem.writeBytes addr data }) := by
  rcases Nat.lt_or_ge (2 ^ 32) (addr + data.length) with h | h
  · exact .inl ⟨h, by simp only [hostMemWrite, h, if_true]⟩
  · have h' : ¬ 2 ^ 32 < addr + data.length := Nat.not_lt.mpr h
    refine .inr ⟨h, _, rfl, ?_⟩
    simp only [hostMemWrite, h', if_false]
    cases touches addr data.length (protectedFromWrites s)
    · simp
    · simp [markHazard]

/-- Only a running command protects addresses. -/
theorem busy_of_touches_protected {s : State} {addr len : Nat}
    (h : touches addr len (protectedFromWrites s) = true ∨ touches addr len (protectedFromReads s) = true) : s.seq = .busy := by
  cases hs : s.seq with
  | busy => rfl
  | idle => simp [protectedFromWrites, protectedFromReads, hs, touches] at h

end Sys2Proof.Machine
end

