-- ==== Sys2Proof/Laws/PerInstr.lean ====
section
/-! SUPPORT. The families of lemmas that hold of every instruction as syntax, one lemma for each constructor. -/

namespace Sys2Proof.Laws.Words

open Sys2Proof Sys2Proof.Machine

/-- An instruction is a command exactly when its word is the content of CMD (30_encoding.md R88, R95), and bits 31:5 of its word are 0. -/
def Statement (i : Instr) : Prop :=
  ((commandOp i).isSome = true ↔ (encode i).1 = .cmd) ∧ (encode i).2.toNat < 32

theorem conv : Statement .conv := ⟨by decide, by decide⟩

theorem median : Statement .median := ⟨by decide, by decide⟩

theorem min : Statement .min := ⟨by decide, by decide⟩

theorem max : Statement .max := ⟨by decide, by decide⟩

theorem midpoint : Statement .midpoint := ⟨by decide, by decide⟩

theorem dct : Statement .dct := ⟨by decide, by decide⟩

theorem idct : Statement .idct := ⟨by decide, by decide⟩

theorem lowpass : Statement .lowpass := ⟨by decide, by decide⟩

theorem highpass : Statement .highpass := ⟨by decide, by decide⟩

theorem normalize : Statement .normalize := ⟨by decide, by decide⟩

theorem dctVis : Statement .dctVis := ⟨by decide, by decide⟩

theorem lowpassVis : Statement .lowpassVis := ⟨by decide, by decide⟩

theorem highpassVis : Statement .highpassVis := ⟨by decide, by decide⟩

theorem start (irqEn : Bool) : Statement (.start irqEn) := by cases irqEn <;> exact ⟨by decide, by decide⟩

theorem srst : Statement .srst := ⟨by decide, by decide⟩

theorem setIrq (irqEn : Bool) : Statement (.setIrq irqEn) := by cases irqEn <;> exact ⟨by decide, by decide⟩

theorem clear (done err degen : Bool) : Statement (.clear done err degen) := by cases done <;> cases err <;> cases degen <;> exact ⟨by decide, by decide⟩

end Sys2Proof.Laws.Words
end

