-- ==== Sys2Proof/Tests/Slice0.lean ====
section
/-! SUPPORT. The model's own tests, and for each statement with hypotheses a witness that meets them. Expected values are the spec's
(95_test_vectors.md unless a rule is named). -/

namespace Sys2Proof.Tests

open Sys2Proof Sys2Proof.Machine Sys2Proof.Reference

set_option Elab.async false

/-! ### Helpers -/

/-- Parameters of a small command: source at 0x1000, kernel at 0x2000, destination at 0x3000, visual buffer at 0x4000. -/
def params (cmd : Word) (w h : Nat) : Params where
  cmd := cmd
  width := BitVec.ofNat 32 w
  height := BitVec.ofNat 32 h
  srcAddr := 0x1000
  srcLen := BitVec.ofNat 32 (w * h)
  dstAddr := 0x3000
  visAddr := 0x4000
  kerAddr := 0x2000
  klen := 9
  dist := 1
  radius := 1

/-- Memory with words at the source and at the kernel address. -/
def memory (src ker : List Word) : Memory := (Memory.writeWords [] 0x1000 src).writeWords 0x2000 ker

/-- A machine in which that command has been started. -/
def started (p : Params) (src ker : List Word) : State :=
  { State.reset with params := p, latch := p, seq := .busy, mem := memory src ker }

/-- The state a step ends in; the reset state where it does not end in one. -/
def after (o : Host.Outcome State Fault Refusal) : State :=
  match o with
  | .next s => s
  | .fault _ => State.reset
  | .refused _ => State.reset

/-- STATUS, OUT_W, OUT_H and n destination words after the next step. -/
def outcome (s : State) (n : Nat) : Word × Word × Word × List Word :=
  let t := after (step s)
  (statusWord t, t.outW, t.outH, (List.range n).map fun i => t.mem.readWord (0x3000 + 4 * i))

/-- What `validate` gives for a change to the base parameters of Part 3. -/
def code (change : Params → Params) : Option CmdError := validate Config.default (change (params 0x1 5 5))

/-! ### Well-formed configurations and instructions -/

theorem test_default_config_wf : Config.default.wf = true := by decide
theorem test_base_unaligned_refused : Config.wf { Config.default with engineBase := 0xF0000004 } = false := by decide
theorem test_maxW_zero_refused : Config.wf { Config.default with maxW := 0 } = false := by decide
theorem test_maxH_zero_refused : Config.wf { Config.default with maxH := 0 } = false := by decide
theorem test_kmaxSide_zero_refused : Config.wf { Config.default with kmaxSide := 0 } = false := by decide
theorem test_dmax_128_refused : Config.wf { Config.default with dmax := 128 } = false := by decide
theorem test_workers_zero_refused : Config.wf { Config.default with numWorkers := 0 } = false := by decide

/-- Instructions carry no field that could be ill formed, so the check has nothing to refuse; the decoder refuses words instead (log 26). -/
theorem test_instr_wf : ∀ i : Instr, i.wf = true := by
  intro i
  cases i <;> rfl

/-! ### Decoding, from the words of 30_encoding.md R99 and R95 -/

theorem test_decode_conv : decode .cmd 0b00000000000000000000000000000001 = .ok .conv := by decide
theorem test_decode_median : decode .cmd 0b00000000000000000000000000000010 = .ok .median := by decide
theorem test_decode_min : decode .cmd 0b00000000000000000000000000000011 = .ok .min := by decide
theorem test_decode_max : decode .cmd 0b00000000000000000000000000000100 = .ok .max := by decide
theorem test_decode_midpoint : decode .cmd 0b00000000000000000000000000000101 = .ok .midpoint := by decide
theorem test_decode_dct : decode .cmd 0b00000000000000000000000000000110 = .ok .dct := by decide
theorem test_decode_idct : decode .cmd 0b00000000000000000000000000000111 = .ok .idct := by decide
theorem test_decode_lowpass : decode .cmd 0b00000000000000000000000000001000 = .ok .lowpass := by decide
theorem test_decode_highpass : decode .cmd 0b00000000000000000000000000001001 = .ok .highpass := by decide
theorem test_decode_normalize : decode .cmd 0b00000000000000000000000000001010 = .ok .normalize := by decide
theorem test_decode_dctVis : decode .cmd 0b00000000000000000000000000010110 = .ok .dctVis := by decide
theorem test_decode_lowpassVis : decode .cmd 0b00000000000000000000000000011000 = .ok .lowpassVis := by decide
theorem test_decode_highpassVis : decode .cmd 0b00000000000000000000000000011001 = .ok .highpassVis := by decide
theorem test_decode_start : decode .ctrl 0b001 = .ok (.start false) ∧ decode .ctrl 0b101 = .ok (.start true) := by decide
theorem test_decode_srst : decode .ctrl 0b010 = .ok .srst ∧ decode .ctrl 0b011 = .ok .srst ∧ decode .ctrl 0b110 = .ok .srst := by decide
theorem test_decode_setIrq : decode .ctrl 0b000 = .ok (.setIrq false) ∧ decode .ctrl 0b100 = .ok (.setIrq true) := by decide
theorem test_decode_clear : decode .status 0b0010 = .ok (.clear true false false) ∧
    decode .status 0b0100 = .ok (.clear false true false) ∧ decode .status 0b1000 = .ok (.clear false false true) := by decide

/-- The rejections of 30_encoding.md R93, by name. -/
theorem test_decode_rejects : decode .cmd 0x00 = .error .reservedOp ∧ decode .cmd 0x0B = .error .reservedOp ∧
    decode .cmd 0x21 = .error .reservedBits ∧ decode .cmd 0x80000001 = .error .reservedBits ∧
    decode .cmd 0x11 = .error .visNotAllowed ∧ decode .cmd 0x1A = .error .visNotAllowed ∧
    decodeBytes .cmd [0x01, 0x00, 0x00] = .error .wrongLength := by decide

/-- Little-endian bytes (92_eei_decisions.md D8). -/
theorem test_word_bytes : wordBytes 0x04030201 = [1, 2, 3, 4] ∧ decodeBytes .cmd [0x16, 0, 0, 0] = .ok .dctVis := by decide

/-- The bare table word of each row gives the row's instruction (log 3). -/
theorem test_table_words : decodeTableWord 32 0x16 = some .dctVis ∧ decodeTableWord 8 0x1 = some (.start false) ∧
    decodeTableWord 8 0x2 = some .srst ∧ decodeTableWord 8 0x0 = some (.setIrq false) ∧
    decodeTableWord 8 0xE = some (.clear true true true) ∧ decodeTableWord 0 0x0 = some (.clear false false false) := by decide

/-! ### One step of each command -/

/-- FIR-5: the kernel is not flipped. -/
theorem test_conv_orientation :
    outcome (started (params 0x1 3 3) [0x0A0A0A, 0x141414, 0x282828, 0x0A0A0A, 0x141414, 0x282828, 0x0A0A0A, 0x141414, 0x282828]
      [0xBF800000, 0, 0x3F800000, 0xC0000000, 0, 0x40000000, 0xBF800000, 0, 0x3F800000]) 1 = (2, 1, 1, [0x00787878]) := by
  decide +kernel

/-- FIR-7: an even side reaches up and to the left. -/
theorem test_conv_even_side :
    outcome (started { params 0x1 3 3 with klen := 4 } [0xA1, 0xA2, 0xA3, 0xB1, 0xB2, 0xB3, 0xC1, 0xC2, 0xC3]
      [0, 0, 0, 0x3F800000]) 1 = (2, 1, 1, [0x000000B2]) := by decide +kernel

/-- The source of OS-2. -/
def keysOS2 : List Word := [0x0000FF, 0x000100, 0x010000, 0x0000FE, 0x00FFFF, 0x000001, 0xFF0000, 0x000200, 0x000080]

theorem test_median : outcome (started (params 0x2 3 3) keysOS2 []) 1 = (2, 1, 1, [0x00000100]) := by decide +kernel
theorem test_min : outcome (started (params 0x3 3 3) keysOS2 []) 1 = (2, 1, 1, [0x00000001]) := by decide +kernel
theorem test_max : outcome (started (params 0x4 3 3) keysOS2 []) 1 = (2, 1, 1, [0x00FF0000]) := by decide +kernel
theorem test_midpoint : outcome (started (params 0x5 3 3) keysOS2 []) 1 = (2, 1, 1, [0x00800001]) := by decide +kernel

/-- OS-3: a half is rounded upward. -/
theorem test_midpoint_rounds_up :
    outcome (started (params 0x5 3 3) [0x010203, 0, 0, 0, 0, 0, 0, 0, 0] []) 1 = (2, 1, 1, [0x00010102]) := by decide +kernel

/-- DCT-5. -/
theorem test_dct : outcome (started (params 0x6 2 2) [0xA5A5A5, 0x4D4D4D, 0xCACACA, 0x181818] []) 4 =
    (2, 2, 2, [0x4369FFFF, 0x4304FFFF, 0x41000000, 0xC2340000]) := by decide +kernel

/-- DCT-6, the visual words of DCT-5. -/
theorem test_dctVis :
    (let t := after (step (started (params 0x16 2 2) [0xA5A5A5, 0x4D4D4D, 0xCACACA, 0x181818] []))
     (statusWord t, (List.range 4).map fun i => t.mem.readWord (0x4000 + 4 * i))) =
    (2, [0x00FFFFFF, 0x00A2A2A2, 0x00303030, 0x00000000]) := by decide +kernel

/-- RT-3: IDCT of DCT-8, truncated. -/
theorem test_idct : outcome (started (params 0x7 3 1) [0x4356C638, 0xC0E24633, 0x428445BF] []) 3 =
    (2, 3, 1, [0x00929292, 0x00454545, 0x009C9C9C]) := by decide +kernel

/-- The spectrum of MASK-1. -/
def spectrumMask1 : List Word :=
  [0x3F800000, 0x40000000, 0x40400000, 0x40800000, 0x40A00000, 0x40C00000, 0x40E00000, 0x41000000, 0x41100000]

theorem test_lowpass : outcome (started (params 0x8 3 3) spectrumMask1 []) 9 =
    (2, 3, 3, [0x3F800000, 0x40000000, 0, 0x40800000, 0, 0, 0, 0, 0]) := by decide +kernel

theorem test_highpass : outcome (started (params 0x9 3 3) spectrumMask1 []) 9 =
    (2, 3, 3, [0, 0, 0x40400000, 0, 0x40A00000, 0x40C00000, 0x40E00000, 0x41000000, 0x41100000]) := by decide +kernel

/-- LOWPASS.VIS with radius 0 on one row: R181 keeps the first element, R185 then maps 4.0 to 255 and the zeros to 0. -/
theorem test_lowpassVis :
    (let t := after (step (started { params 0x18 3 1 with radius := 0 } [0x40800000, 0x40000000, 0x40000000] []))
     (statusWord t, (List.range 3).map fun i => t.mem.readWord (0x4000 + 4 * i))) = (2, [0x00FFFFFF, 0, 0]) := by decide +kernel

/-- HIGHPASS.VIS with everything inside the radius: R182 zeroes all, so R186 sets DEGEN and writes zeros. -/
theorem test_highpassVis :
    (let t := after (step (started { params 0x19 2 1 with radius := 5 } [0x40800000, 0x40000000] []))
     (statusWord t, (List.range 2).map fun i => t.mem.readWord (0x4000 + 4 * i))) = (0xA, [0, 0]) := by decide +kernel

theorem test_normalize : outcome (started (params 0xA 4 1) [0xBF800000, 0, 0x3F800000, 0x40400000] []) 4 =
    (2, 4, 1, [0x00000000, 0x003F3F3F, 0x007F7F7F, 0x00FFFFFF]) := by decide +kernel

theorem test_normalize_degenerate : outcome (started (params 0xA 2 1) [0x00000000, 0x80000000] []) 2 = (0xA, 2, 1, [0, 0]) := by
  decide +kernel

/-! ### Control actions, register writes and errors -/

/-- 40_command_control.md R107, and R108 for a second START. -/
theorem test_start :
    (let s := after (exec (.start true) { State.reset with params := params 0x1 5 5, outW := 7, done := true })
     (statusWord s, irq s, s.latch == params 0x1 5 5, s.outW) = (1, false, true, 7)) ∧
    (let s := after (exec (.start false) (started (params 0x1 5 5) [] []))
     (s.seq, s.irqEn) = (.busy, false)) := by decide +kernel

/-- 70_reset_and_hazards.md R221. -/
theorem test_srst : after (exec .srst { State.reset with params := params 0x1 5 5, irqEn := true, done := true, outW := 3 }) = State.reset := by
  decide +kernel

/-- 60_exceptions.md R203: IRQ rises when the enable is set while DONE is 1. -/
theorem test_setIrq : irq (after (exec (.setIrq true) { State.reset with done := true })) = true := by decide

/-- The example of 40_command_control.md R115. -/
theorem test_clear :
    statusWord { State.reset with err := true, errcode := 2 } = 0x00000204 ∧
    statusWord (after (exec (decodeStatus 0x4) { State.reset with err := true, errcode := 2 })) = 0x00000000 := by decide

/-- H1: a parameter write is stored while IDLE and lost while BUSY (40_command_control.md R105). -/
theorem test_parameter_write :
    (after (step { State.reset with agenda := [.write 0xF000001C [5, 0, 0, 0]] })).params.width = 5 ∧
    (after (step { started (params 0x1 5 5) [] [] with agenda := [.write 0xF000001C [9, 0, 0, 0]] })).params.width = 5 := by decide +kernel

/-- BUS-1: memory that does not admit 0x1030. -/
theorem test_bus_error :
    (let s := started (params 0x1 5 5) [] []
     let t := after (step { s with cfg := { s.cfg with denied := [⟨0x1030, 0x1031⟩] } })
     (statusWord t, t.outW, t.outH)) = (0x00000604, 0, 0) := by decide +kernel

/-- ERR-5, ERR-7, ERR-11, ERR-14, ERR-16, ERR-20, ERR-21. -/
theorem test_error_codes :
    code (fun p => { p with cmd := 0xF, width := 0 }) = some .illegal ∧ code (fun p => { p with srcLen := 24 }) = some .dim ∧
    code (fun p => { p with klen := 1089 }) = some .kernel ∧
    code (fun p => { p with cmd := 0x2, dist := 2, width := 4, srcLen := 20 }) = some .kernel ∧
    code (fun p => { p with kerAddr := 0x2001 }) = some .align ∧ code (fun p => { p with cmd := 0x16, visAddr := 0x3040 }) = some .addr ∧
    code (fun p => { p with srcAddr := 0xFFFFFFA0 }) = some .addr := by decide +kernel

/-- OK-2, OK-5, OK-7, OK-8, OK-9. -/
theorem test_accepted_boundaries :
    code (fun p => { p with cmd := 0x2, dist := 2 }) = none ∧ code (fun p => { p with dstAddr := 0x1064 }) = none ∧
    code (fun p => { p with cmd := 0x16, visAddr := 0x3064 }) = none ∧ code (fun p => { p with srcAddr := 0xFFFFFF9C }) = none ∧
    code (fun p => { p with cmd := 0x8, klen := 8, dist := 99, kerAddr := 1 }) = none := by decide +kernel

/-- 70_reset_and_hazards.md R222: an abort draws the words of the destination, also where the command would fail validation (E_ADDR here);
30_encoding.md R93: with an illegal word it draws none. -/
theorem test_abort_draws :
    (after (exec .srst (started { params 0x6 3 3 with dstAddr := 0x1000 } [1] []))).draws = 9 ∧
    (after (exec .srst (started (params 0xF 3 3) [1] []))).draws = 0 := by decide +kernel

/-- The special results of binary32 that 41_fir.md R137 and 44_spectral_mask.md R189 rest on (00_scope.md R13). -/
theorem test_float_specials : f32IsNaN (fmul 0x7F800000 0x80000000) = true ∧ fmul 0x80000000 0x3F800000 = 0x80000000 ∧
    f32IsNaN (fsub 0x7F800000 0x7F800000) = true ∧ fdiv 0x3F800000 0x80000000 = 0xFF800000 ∧ fdiv 0xBF800000 0x7F800000 = 0x80000000 ∧
    fadd 0x00000000 0x80000000 = 0x00000000 := by decide +kernel

/-! ### Numbers -/

/-- The values listed by 43_dct.md R161. -/
theorem test_tables :
    twiddle 4 1 = 0x3F6C835E ∧ twiddle 4 2 = 0x3F3504F3 ∧ twiddle 4 3 = 0x3EC3EF15 ∧ scale 2 0 = 0x3F3504F3 ∧
    scale 3 0 = 0x3F13CD3A ∧ scale 3 1 = 0x3F5105EC ∧ scale 4 0 = 0x3F000000 ∧ scale 4 1 = 0x3F3504F3 ∧
    scale 1 0 = 0x3F800000 ∧ twiddle 4 7 = 0xBF6C835E ∧ twiddle 4 12 = 0x00000000 ∧ twiddle 5 3 = 0x3F167918 := by decide +kernel

/-- FIR-2: the product, and the sum of nine of them. -/
theorem test_float_sum : fmul 0x3DE38E39 (f32OfNat 100) = 0x4131C71D ∧
    fsum (List.replicate 9 0x4131C71D) = 0x42C80002 ∧ satU8 0x42C80002 = 100 := by decide +kernel

/-- DCT-4: 1/3 is rounded; IDCT-1: 254.99998 is truncated. -/
theorem test_float_corners : dctSample 0x00000001 = 0x3EAAAAAB ∧ satU8 0x437EFFFF = 254 ∧ satU8 0x7FC00000 = 0 ∧
    satU8 0x7F800000 = 255 := by decide +kernel

/-! ### Witnesses: for each statement with hypotheses, a state and operands that meet them -/

/-- A 3×3 command of the given word, running, over memory that lists nothing. -/
def running (cmd : Word) : State := started (params cmd 3 3) [] []

theorem test_running_conv : Running .conv false (running 0x1) := ⟨rfl, by decide +kernel, by decide +kernel, rfl⟩
theorem test_running_median : Running .median false (running 0x2) := ⟨rfl, by decide +kernel, by decide +kernel, rfl⟩
theorem test_running_min : Running .min false (running 0x3) := ⟨rfl, by decide +kernel, by decide +kernel, rfl⟩
theorem test_running_max : Running .max false (running 0x4) := ⟨rfl, by decide +kernel, by decide +kernel, rfl⟩
theorem test_running_midpoint : Running .midpoint false (running 0x5) := ⟨rfl, by decide +kernel, by decide +kernel, rfl⟩
theorem test_running_dct : Running .dct false (running 0x6) := ⟨rfl, by decide +kernel, by decide +kernel, rfl⟩
theorem test_running_idct : Running .idct false (running 0x7) := ⟨rfl, by decide +kernel, by decide +kernel, rfl⟩
theorem test_running_lowpass : Running .lowpass false (running 0x8) := ⟨rfl, by decide +kernel, by decide +kernel, rfl⟩
theorem test_running_highpass : Running .highpass false (running 0x9) := ⟨rfl, by decide +kernel, by decide +kernel, rfl⟩
theorem test_running_normalize : Running .normalize false (running 0xA) := ⟨rfl, by decide +kernel, by decide +kernel, rfl⟩
theorem test_running_dctVis : Running .dct true (running 0x16) := ⟨rfl, by decide +kernel, by decide +kernel, rfl⟩
theorem test_running_lowpassVis : Running .lowpass true (running 0x18) := ⟨rfl, by decide +kernel, by decide +kernel, rfl⟩
theorem test_running_highpassVis : Running .highpass true (running 0x19) := ⟨rfl, by decide +kernel, by decide +kernel, rfl⟩

theorem test_running_mem_wf (cmd : Word) : (running cmd).mem.wf = true ∧ (running cmd).cfg.wf = true :=
  ⟨rfl, show Config.default.wf = true by decide⟩

/-- The machine after reset with these turns waiting. -/
def hostTurns (ts : List Turn) : State := { State.reset with agenda := ts }

/-- The running CONV with these turns waiting. -/
def busyTurns (ts : List Turn) : State := { running 0x1 with agenda := ts }

theorem test_witness_LegalCommandWords :
    (running 0xF).seq = .busy ∧ engineNext (running 0xF) ∧ ∀ i, decodeCommand (running 0xF).latch.cmd ≠ .ok i :=
  ⟨rfl, .inl rfl, fun i h => by
    rw [show decodeCommand (running 0xF).latch.cmd = .error .reservedOp from by decide] at h
    cases h⟩

theorem test_witness_DecodeEncodeAgree : Instr.wf (.clear true false true) = true ∧ decodeCommand 0x16 = .ok .dctVis := by decide

theorem test_witness_StepRunsDecodedInstruction :
    ((running 0x1).seq = .busy ∧ engineNext (running 0x1) ∧ decodeCommand (running 0x1).latch.cmd = .ok .conv) ∧
    ((hostTurns [.write (windowAddr State.reset 0x010) (wordBytes 0x5)]).cfg.wf = true ∧
      (hostTurns [.write (windowAddr State.reset 0x014) (wordBytes 0xE)]).cfg.wf = true) :=
  ⟨⟨rfl, .inl rfl, by decide⟩, by decide⟩

theorem test_witness_PlacedWordRunsNext :
    (0x16 < 2 ^ 32 ∧ decodeCommand (BitVec.ofNat 32 0x16) = .ok .dctVis) ∧
    (State.reset.cfg.wf = true ∧ decodeTableWord 8 0x5 = some (.start true)) := by decide

theorem test_witness_WindowReadReturnsRegister :
    (hostTurns [.read (windowAddr State.reset 0x000) 4]).cfg.wf = true ∧ 0x000 % 4 = 0 ∧ 0x0FC % 4 = 0 ∧ 0x0FC < 0x100 ∧
    windowAddr State.reset 0x0FC = 0xF00000FC := by decide

theorem test_witness_ParameterWrite :
    (busyTurns [.write (windowAddr State.reset (paramOffset .cmd)) (wordBytes 7)]).seq = .busy ∧
    (hostTurns [.write (windowAddr State.reset (paramOffset .radius)) (wordBytes 7)]).seq = .idle ∧
    windowAddr State.reset (paramOffset .radius) = 0xF0000040 := by decide

/-- The four clauses of the offsets, at their ends. -/
theorem test_witness_ReadOnlyWriteIgnored :
    (hostTurns [.write (windowAddr State.reset 0x00C) (wordBytes 7)]).cfg.wf = true ∧
    ∀ off ∈ [0x000, 0x00C, 0x044, 0x048, 0x04C, 0x0FC],
      off % 4 = 0 ∧ (off < 0x010 ∨ off = 0x044 ∨ off = 0x048 ∨ (0x04C ≤ off ∧ off < 0x100)) := by decide

theorem test_witness_ImproperWindowAccessRefused :
    (inWindow State.reset 0xF00000FF 1 ∧ ¬(1 = 4 ∧ 0xF00000FF % 4 = 0)) ∧
    (inWindow State.reset 0xEFFFFFFE 4 ∧ ¬(4 = 4 ∧ 0xEFFFFFFE % 4 = 0)) ∧
    (inWindow State.reset 0xF0000000 2 ∧ ¬(2 = 4 ∧ 0xF0000000 % 4 = 0)) := by
  unfold inWindow
  decide

theorem test_witness_StartAccepted : State.reset.seq = .idle := rfl

theorem test_witness_StartWhileBusyIgnored : (running 0x1).seq = .busy := rfl

theorem test_witness_CtrlWriteByBits :
    (0x3 : Word).getLsbD 1 = true ∧ ((0x4 : Word).getLsbD 1 = false ∧ (0x4 : Word).getLsbD 0 = false) ∧
    ((0x5 : Word).getLsbD 1 = false ∧ (0x5 : Word).getLsbD 0 = true) := by decide

/-- The invariant holds of a running command. -/
theorem test_running_inv : (running 0x1).Inv where
  memWf := rfl
  busyFlags := fun _ => ⟨rfl, rfl, rfl⟩
  doneOrErr := by decide
  errcodeErr := by decide
  errcodeRange := by decide
  latchParams := fun _ => rfl
  tornBusy := by decide

theorem test_witness_StatusWriteClears :
    (running 0x1).Inv ∧ (running 0x1).seq = .busy ∧ (0x6 : Word).getLsbD 1 = true ∧ (0x6 : Word).getLsbD 2 = true :=
  ⟨test_running_inv, rfl, by decide, by decide⟩

theorem test_witness_ResetValues : 0x010 ≤ 0x048 ∧ 0x048 ≤ 0x048 ∧ 0x048 % 4 = 0 := by decide

theorem test_witness_SoftResetRegisters : State.reset.seq = .idle ∧ (busyTurns [.reset]).agenda = [.reset] := ⟨rfl, rfl⟩

/-- A valid command, a command that will fail E_ADDR (its destination lies over its source), and an illegal word. -/
theorem test_witness_ResetAbortsCommand :
    ((running 0x16).seq = .busy ∧ (running 0x16).mem.wf = true ∧ decodeCommand (running 0x16).latch.cmd = .ok .dctVis ∧
      commandOp .dctVis = some (.dct, true) ∧ validateOperands (running 0x16).cfg .dct true (running 0x16).latch = none) ∧
    (let s := started { params 0x6 3 3 with dstAddr := 0x1000 } [1] []
     s.seq = .busy ∧ s.mem.wf = true ∧ decodeCommand s.latch.cmd = .ok .dct ∧ commandOp .dct = some (.dct, false) ∧
      validateOperands s.cfg .dct false s.latch = some .addr) ∧
    ((running 0xF).seq = .busy ∧ decodeCommand (running 0xF).latch.cmd = .error .reservedOp) := by decide +kernel

theorem test_witness_SoftResetAndExecOrders :
    (running 0x1).seq = .busy ∧ decodeCommand (running 0x1).latch.cmd = .ok .conv := by decide

theorem test_witness_IrqLine :
    State.reset.seq = .idle ∧ ({ State.reset with done := true } : State).done = true ∧
    commandOp .conv = some (.conv, false) ∧ (running 0x1).seq = .busy := by decide

theorem test_witness_ValidationErrorCompletes :
    (let s := started { params 0x1 5 5 with srcLen := 24 } [] []
     s.seq = .busy ∧ commandOp .conv = some (.conv, false) ∧ validateOperands s.cfg .conv false s.latch = some .dim) := by
  decide +kernel

/-- The running DCT.VIS where memory does not admit its last visual word. -/
def deniedRun : State := { running 0x16 with cfg := { Config.default with denied := [⟨0x4020, 0x4021⟩] } }

theorem test_witness_BusErrorCompletes :
    deniedRun.seq = .busy ∧ deniedRun.mem.wf = true ∧ commandOp .dctVis = some (.dct, true) ∧
    validateOperands deniedRun.cfg .dct true deniedRun.latch = none ∧
    allAdmitted deniedRun.cfg .dct true deniedRun.latch = false := by decide +kernel

theorem test_witness_AdmissionCoversRanges :
    (validateOperands { Config.default with denied := [] } .conv false (params 0x1 3 3) = none ∧
      ∀ a, admits { Config.default with denied := [] } a = true) ∧
    (∀ a ∈ [0x1000, 0x1020, 0x2000, 0x2020, 0x3000],
      a % 4 = 0 ∧ admits { Config.default with denied := [⟨a, a + 1⟩] } a = false ∧
      ((∃ r ∈ outputRanges .conv false (params 0x1 3 3), AddrRange.contains r a = true) ∨
        (Op.conv = .conv ∧ AddrRange.contains (kernelRange (params 0x1 3 3)) a = true) ∨
        (windowSide .conv (params 0x1 3 3) % 2 = 1 ∧ AddrRange.contains (sourceRange (params 0x1 3 3)) a = true))) :=
  ⟨⟨by decide +kernel, fun _ => rfl⟩, by decide +kernel⟩

theorem test_witness_ConvOutput :
    Running .conv false (running 0x1) ∧ (running 0x1).mem.wf = true ∧
    0 < W (running 0x1) - 2 * (firSide (running 0x1) / 2) :=
  ⟨test_running_conv, rfl, by decide +kernel⟩

theorem test_witness_MedianOutput : Running .median false (running 0x2) ∧ (running 0x2).mem.wf = true := ⟨test_running_median, rfl⟩

theorem test_witness_MinMaxOutput :
    (Running .min false (running 0x3) ∧ (running 0x3).mem.wf = true) ∧ Running .max false (running 0x4) ∧ (running 0x4).mem.wf = true :=
  ⟨⟨test_running_min, rfl⟩, test_running_max, rfl⟩

theorem test_witness_MidpointOutput : Running .midpoint false (running 0x5) ∧ (running 0x5).mem.wf = true :=
  ⟨test_running_midpoint, rfl⟩

theorem test_witness_DctOutput :
    (Running .dct false (running 0x6) ∧ (running 0x6).mem.wf = true ∧ (running 0x6).cfg.wf = true) ∧
    Running .dct true (running 0x16) ∧ (running 0x16).mem.wf = true ∧ (running 0x16).cfg.wf = true :=
  ⟨⟨test_running_dct, test_running_mem_wf _⟩, test_running_dctVis, test_running_mem_wf _⟩

theorem test_witness_IdctOutput : Running .idct false (running 0x7) ∧ (running 0x7).mem.wf = true ∧ (running 0x7).cfg.wf = true :=
  ⟨test_running_idct, test_running_mem_wf _⟩

theorem test_witness_LowpassOutput :
    (Running .lowpass false (running 0x8) ∧ (running 0x8).mem.wf = true) ∧ Running .lowpass true (running 0x18) ∧
    (running 0x18).mem.wf = true := ⟨⟨test_running_lowpass, rfl⟩, test_running_lowpassVis, rfl⟩

theorem test_witness_HighpassOutput :
    (Running .highpass false (running 0x9) ∧ (running 0x9).mem.wf = true) ∧ Running .highpass true (running 0x19) ∧
    (running 0x19).mem.wf = true := ⟨⟨test_running_highpass, rfl⟩, test_running_highpassVis, rfl⟩

theorem test_witness_NormalizeOutput : Running .normalize false (running 0xA) ∧ (running 0xA).mem.wf = true :=
  ⟨test_running_normalize, rfl⟩

/-- A NORMALIZE running over the destination of the DCT.VIS above, just after it. -/
def normalizeAfter : State :=
  { started { params 0xA 3 3 with srcAddr := 0x3000, dstAddr := 0x5000 } [] [] with mem := (after (exec .dctVis (running 0x16))).mem }

theorem test_witness_VisualOutputIsNormalize :
    (commandOp .dctVis = some (.dct, true) ∧ Running .dct true (running 0x16) ∧ (running 0x16).mem.wf = true ∧
      (running 0x16).cfg.wf = true ∧ Running .normalize false normalizeAfter ∧
      normalizeAfter.mem = (after (exec .dctVis (running 0x16))).mem ∧
      normalizeAfter.latch.srcAddr = (running 0x16).latch.dstAddr ∧
      W normalizeAfter * H normalizeAfter = W (running 0x16) * H (running 0x16)) ∧
    (commandOp .dct = some (.dct, false) ∧ Op.dct ∈ [Op.dct, Op.lowpass, Op.highpass] ∧ Running .dct false (running 0x6)) :=
  ⟨⟨rfl, test_running_dctVis, rfl, by decide, ⟨rfl, by decide +kernel, by decide +kernel, rfl⟩,
      by rw [normalizeAfter], rfl, by decide⟩,
    rfl, by decide, test_running_dct⟩

/-- The running 3×3 CONV with the identity kernel. -/
def identityRun : State := started (params 0x1 3 3) [] [0, 0, 0, 0, 0x3F800000, 0, 0, 0, 0]

theorem test_witness_IdentityKernelKeepsInterior :
    Running .conv false identityRun ∧ identityRun.mem.wf = true ∧ identityRun.latch.klen = 9 ∧
    ∀ i < 9, identityRun.mem.readWord (identityRun.latch.kerAddr.toNat + 4 * i) = if i = 4 then 0x3F800000 else 0x00000000 :=
  ⟨⟨rfl, by decide +kernel, by decide +kernel, rfl⟩, by decide +kernel, rfl, by decide +kernel⟩

/-- A running 3×3 command with DIST = 0. -/
def zeroDistance (cmd : Word) : State := started { params cmd 3 3 with dist := 0 } [] []

theorem test_witness_DistanceZeroCopies :
    (Running .median false (zeroDistance 0x2) ∧ Running .min false (zeroDistance 0x3) ∧ Running .max false (zeroDistance 0x4) ∧
      Running .midpoint false (zeroDistance 0x5)) ∧
    (zeroDistance 0x5).mem.wf = true ∧ (zeroDistance 0x5).latch.dist = 0 ∧
    commandOp .midpoint = some (.midpoint, false) ∧ Op.midpoint ∈ [Op.median, Op.min, Op.max, Op.midpoint] :=
  ⟨⟨⟨rfl, by decide +kernel, by decide +kernel, rfl⟩, ⟨rfl, by decide +kernel, by decide +kernel, rfl⟩,
    ⟨rfl, by decide +kernel, by decide +kernel, rfl⟩, ⟨rfl, by decide +kernel, by decide +kernel, rfl⟩⟩, rfl, rfl, by decide⟩

theorem test_witness_MasksAreComplements :
    Running .lowpass false (running 0x8) ∧ Running .highpass false (running 0x8) ∧ (running 0x8).mem.wf = true :=
  ⟨test_running_lowpass, ⟨rfl, by decide +kernel, by decide +kernel, rfl⟩, rfl⟩

/-- Both sides of the threshold: a 4×5 spectrum reaches it exactly at radius 5, since 9 + 16 = 25. -/
theorem test_witness_MaskThreshold :
    (let s (r : Word) := started { params 0x9 4 5 with radius := r } [] []
     Running .highpass false (s 5) ∧ Running .highpass false (s 4) ∧ (s 5).mem.wf = true ∧
     (W (s 5) - 1) ^ 2 + (H (s 5) - 1) ^ 2 ≤ (s 5).latch.radius.toNat ^ 2 ∧
     (s 4).latch.radius.toNat ^ 2 < (W (s 4) - 1) ^ 2 + (H (s 4) - 1) ^ 2) :=
  ⟨⟨rfl, by decide +kernel, by decide +kernel, rfl⟩, ⟨rfl, by decide +kernel, by decide +kernel, rfl⟩, rfl, by decide, by decide⟩

theorem test_witness_DegenerateNormalize :
    Running .normalize false (running 0xA) ∧ (running 0xA).mem.wf = true ∧
    (after (exec .normalize (running 0xA))).degen = true := ⟨test_running_normalize, rfl, by decide +kernel⟩

/-- NaN, 2.0, 4.0: one element for each clause. -/
def extremesRun : State := started (params 0xA 3 1) [0x7FC00000, 0x40000000, 0x40800000] []

theorem test_witness_NormalizeExtremes :
    Running .normalize false extremesRun ∧ extremesRun.mem.wf = true ∧
    fgt (normHi (coef extremesRun) (W extremesRun * H extremesRun)) (normLo (coef extremesRun) (W extremesRun * H extremesRun)) = true ∧
    FiniteF32 (fsub (normHi (coef extremesRun) (W extremesRun * H extremesRun)) (normLo (coef extremesRun) (W extremesRun * H extremesRun))) ∧
    f32IsNaN (coef extremesRun 0) = true ∧
    f32Signed (coef extremesRun 1) = f32Signed (normLo (coef extremesRun) (W extremesRun * H extremesRun)) ∧
    f32Signed (coef extremesRun 2) = f32Signed (normHi (coef extremesRun) (W extremesRun * H extremesRun)) :=
  ⟨⟨rfl, by decide +kernel, by decide +kernel, rfl⟩, by decide +kernel, by decide +kernel, by unfold FiniteF32; decide +kernel,
    by decide +kernel, by decide +kernel, by decide +kernel⟩

/-- SPEC-6's masked spectrum. -/
def dcOnlyRun : State := started (params 0x7 2 2) [0x4369FFFF] []

theorem test_witness_IdctOfDcOnlyIsUniform :
    Running .idct false dcOnlyRun ∧ dcOnlyRun.mem.wf = true ∧ dcOnlyRun.cfg.wf = true ∧
    (∀ i < W dcOnlyRun * H dcOnlyRun, i ≠ 0 → coef dcOnlyRun i = 0x00000000) ∧ coef dcOnlyRun 0 = 0x4369FFFF :=
  ⟨⟨rfl, by decide +kernel, by decide +kernel, rfl⟩, by decide +kernel, by decide, by decide +kernel, by decide +kernel⟩

/-- The running CONV with one worker, other memory and other marks. -/
def otherRun : State :=
  { running 0x1 with cfg := { Config.default with numWorkers := 1 }, mem := [(0x9000, 1)], hazard := true, outW := 5 }

theorem test_witness_ResultIsFunctionOfInputs :
    commandOp .conv = some (.conv, false) ∧ Running .conv false (running 0x1) ∧ Running .conv false otherRun ∧
    (running 0x1).mem.wf = true ∧ otherRun.mem.wf = true ∧ (running 0x1).cfg.wf = true ∧ otherRun.cfg.wf = true ∧
    (running 0x1).latch = otherRun.latch ∧
    (∀ a, (∃ r ∈ inputRanges .conv (running 0x1).latch, AddrRange.contains r a = true) →
      (running 0x1).mem.read a = otherRun.mem.read a) := by
  refine ⟨rfl, test_running_conv, ⟨rfl, by decide +kernel, by decide +kernel, rfl⟩, rfl, by decide, by decide, by decide, rfl, ?_⟩
  rintro a ⟨r, hr, ha⟩
  have ha' : a ≠ 0x9000 := by
    rintro rfl
    revert r
    decide
  simp [running, started, otherRun, memory, Memory.read, Memory.writeWords, Ne.symm ha']

theorem test_witness_WorkersUnobservable :
    (∃ op vis, commandOp .dct = some (op, vis)) ∧ (1 : BitVec 8) ≠ 0 ∧ (255 : BitVec 8) ≠ 0 ∧
    ∃ t, exec .dct { running 0x6 with cfg := { (running 0x6).cfg with numWorkers := 255 } } = .next t :=
  ⟨⟨_, _, rfl⟩, by decide, by decide, _, rfl⟩

/-- Inside each kind of range, just outside one, and at the end of the address space. -/
theorem test_witness_HostWriteHazard :
    (running 0x1).seq = .busy ∧ latchedCommand (running 0x1).latch = some (.conv, false) ∧
    ∀ a ∈ [0x1000, 0x1023, 0x1024, 0x2000, 0x3003, 0x3004, 0xFFFFFFFF],
      (busyTurns [.write (BitVec.ofNat 32 a) [1]]).agenda = [.write (BitVec.ofNat 32 a) [1]] ∧
      ¬ inWindow (busyTurns []) (BitVec.ofNat 32 a).toNat 1 ∧ (BitVec.ofNat 32 a).toNat + 1 ≤ 2 ^ 32 := by
  unfold inWindow
  decide +kernel

theorem test_witness_HostReadHazard :
    (running 0x1).seq = .busy ∧ latchedCommand (running 0x1).latch = some (.conv, false) ∧
    (∀ a ∈ [0x1000, 0x3003, 0x3004, 0xFFFFFFFF],
      (busyTurns [.read (BitVec.ofNat 32 a) 1]).agenda = [.read (BitVec.ofNat 32 a) 1] ∧
      ¬ inWindow (busyTurns []) (BitVec.ofNat 32 a).toNat 1 ∧ (BitVec.ofNat 32 a).toNat + 1 ≤ 2 ^ 32) ∧
    ∀ k < 1, ∀ r ∈ outputRanges .conv false (running 0x1).latch, AddrRange.contains r (0x3004 + k) = false := by
  unfold inWindow
  decide +kernel

theorem test_witness_IdleHostAccess :
    (hostTurns [.write 0xFFFFFFFE [1, 2]]).seq = .idle ∧
    ((running 0xF).seq = .busy ∧ latchedCommand (running 0xF).latch = none) ∧
    (¬ inWindow State.reset 0xFFFFFFFE 2 ∧ 0xFFFFFFFE + 2 ≤ 2 ^ 32) ∧ (¬ inWindow State.reset 0xFFFFFFFF 2 ∧ 2 ^ 32 < 0xFFFFFFFF + 2) ∧
    (¬ inWindow State.reset 0xFFFFFFFD 4 ∧ 2 ^ 32 < 0xFFFFFFFD + 4) := by
  unfold inWindow
  decide

/-- A running DCT.VIS that another agent has touched. -/
def tornRun : State := { running 0x16 with torn := true, hazard := true }

theorem test_witness_TornCommandGivesFreeWords :
    tornRun.seq = .busy ∧ tornRun.mem.wf = true ∧ commandOp .dctVis = some (.dct, true) ∧
    validateOperands tornRun.cfg .dct true tornRun.latch = none ∧ allAdmitted tornRun.cfg .dct true tornRun.latch = true ∧
    tornRun.torn = true := by decide +kernel

theorem test_witness_StepKeepsInvariant : (running 0x1).Inv ∧ ∃ t, step (running 0x1) = .next t := ⟨test_running_inv, _, rfl⟩

theorem test_witness_EngineWritesOnlyOutputs :
    (∃ t, step (running 0x1) = .next t) ∧
    (∀ addr data, (running 0x1).agenda.head? = some (.write addr data) → inWindow (running 0x1) addr.toNat data.length) ∧
    ∀ op vis, (running 0x1).seq = .busy → latchedCommand (running 0x1).latch = some (op, vis) →
      outsideOutputs op vis (running 0x1).latch 0x3004 := by
  refine ⟨⟨_, rfl⟩, by intro _ _ h; simp [running, started, State.reset] at h, ?_⟩
  intro op vis _ h
  rw [show latchedCommand (running 0x1).latch = some (.conv, false) from by decide] at h
  obtain ⟨rfl, rfl⟩ : Op.conv = op ∧ false = vis := by simpa using h
  unfold outsideOutputs
  decide +kernel

theorem test_witness_SequencerChanges :
    (State.reset.seq = .idle ∧ (after (step (hostTurns [.write (windowAddr State.reset 0x010) (wordBytes 0x1)]))).seq = .busy) ∧
    ((running 0x1).seq = .busy ∧ (after (step (running 0x1))).seq = .idle) := by decide +kernel

theorem test_witness_MarksAndParametersLast :
    (∃ t, step { busyTurns [.reset] with hazard := true, refused := true } = .next t) ∧
    ({ busyTurns [.reset] with hazard := true, refused := true } : State).hazard = true := ⟨⟨_, rfl⟩, rfl⟩

theorem test_witness_CommandTerminates :
    ((running 0x1).seq = .busy ∧ (running 0x1).agenda = []) ∧
    ((busyTurns [.poll (windowAddr State.reset 0x014) 0x1 0x0]).cfg.wf = true ∧
      (busyTurns [.poll (windowAddr State.reset 0x014) 0x1 0x0]).seq = .busy) := by decide

/-- The real value by its fields, for concrete words. -/
theorem realValue_by_fields {a : F32} {b : Bool} {e f : Nat} (hb : a.getLsbD 31 = b) (he : f32Exp a = e) (hf : f32Frac a = f) :
    realValue a = (if b then -1 else 1) *
      (if e = 0 then (f : ℚ) * (2 : ℚ) ^ (-149 : ℤ) else ((2 : ℚ) ^ 23 + f) * (2 : ℚ) ^ ((e : ℤ) - 150)) := by
  subst hb he hf
  rfl

/-- Real values of the zeros and of 0.5. -/
theorem realValue_examples : realValue 0x00000000 = 0 ∧ realValue 0x80000000 = 0 ∧ realValue 0x3F000000 ≠ 0 := by
  rw [realValue_by_fields (a := 0x00000000) (b := false) (e := 0) (f := 0) (by decide) (by decide) (by decide),
    realValue_by_fields (a := 0x80000000) (b := true) (e := 0) (f := 0) (by decide) (by decide) (by decide),
    realValue_by_fields (a := 0x3F000000) (b := false) (e := 126) (f := 0) (by decide) (by decide) (by decide)]
  norm_num

/-- The largest and the smallest finite value, two zeros that cancel, and a NaN. -/
theorem test_witness_AdditionRounds :
    (FiniteF32 0x7F7FFFFF ∧ FiniteF32 0x00000001) ∧ (FiniteF32 0x00000000 ∧ FiniteF32 0x80000000 ∧
      realValue 0x00000000 + realValue 0x80000000 = 0 ∧ realValue 0x00000000 - realValue 0x80000000 = 0) ∧
    f32IsNaN 0x7F800001 = true := by
  obtain ⟨h0, h1, -⟩ := realValue_examples
  unfold FiniteF32
  exact ⟨by decide, ⟨by decide, by decide, by rw [h0, h1]; norm_num, by rw [h0, h1]; norm_num⟩, by decide⟩

theorem test_witness_MultiplicationRounds :
    (FiniteF32 0xFF7FFFFF ∧ FiniteF32 0x80000001) ∧ (FiniteF32 0x80000000 ∧ realValue 0x80000000 = 0) ∧
    (FiniteF32 0x3F000000 ∧ realValue 0x3F000000 ≠ 0) ∧ f32IsNaN 0xFFFFFFFF = true := by
  obtain ⟨-, h1, h2⟩ := realValue_examples
  unfold FiniteF32
  exact ⟨by decide, ⟨by decide, h1⟩, ⟨by decide, h2⟩, by decide⟩

theorem test_witness_DivisionRounds :
    (FiniteF32 0x00000001 ∧ FiniteF32 0x3F000000 ∧ realValue 0x3F000000 ≠ 0) ∧
    (FiniteF32 0x80000000 ∧ realValue 0x80000000 = 0 ∧ FiniteF32 0x00000000 ∧ realValue 0x00000000 = 0) ∧
    f32IsNaN 0x7FC00000 = true := by
  obtain ⟨h0, h1, h2⟩ := realValue_examples
  unfold FiniteF32
  exact ⟨⟨by decide, by decide, h2⟩, ⟨by decide, h1, by decide, h0⟩, by decide⟩

theorem test_witness_SaturationToByte :
    f32IsNaN 0x7FC00000 = true ∧ (FiniteF32 0x80000000 ∧ realValue 0x80000000 ≤ 0) ∧
    (FiniteF32 0x437F0000 ∧ 255 ≤ realValue 0x437F0000) ∧
    (FiniteF32 0x437EFFFF ∧ 0 < realValue 0x437EFFFF ∧ realValue 0x437EFFFF < 255) := by
  rw [realValue_by_fields (a := 0x80000000) (b := true) (e := 0) (f := 0) (by decide) (by decide) (by decide),
    realValue_by_fields (a := 0x437F0000) (b := false) (e := 134) (f := 0x7F0000) (by decide) (by decide) (by decide),
    realValue_by_fields (a := 0x437EFFFF) (b := false) (e := 134) (f := 0x7EFFFF) (by decide) (by decide) (by decide)]
  unfold FiniteF32
  refine ⟨by decide, ⟨by decide, ?_⟩, ⟨by decide, ?_⟩, by decide, ?_, ?_⟩ <;> norm_num

theorem test_witness_ComparisonIsRealOrder : f32IsNaN 0xFFFFFFFF = true ∧ FiniteF32 0x00000000 ∧ FiniteF32 0x80000000 := by
  unfold FiniteF32
  decide

theorem test_witness_IntegerHelpersAreExact : 0 ≤ 2 ^ 24 ∧ 2 ^ 24 ≤ 2 ^ 24 := by decide

theorem test_witness_TwiddleIsRoundedCosine :
    0 < 5 ∧ 5 ≤ 65535 ∧ (∀ m < 5, quarterWaveDecided 5 m = true) ∧ quarterWaveDecided 65535 65534 = true := by decide +kernel

theorem test_witness_ScaleIsRoundedRoot : (0 < 1 ∧ 1 ≤ 65535) ∧ (0 < 65535 ∧ 65535 ≤ 65535) := by decide

end Sys2Proof.Tests
end

section
/-! SUPPORT. The fields of a binary32 encoding (00_scope.md R12), and its magnitude as a function of bits 30:0. -/

namespace Sys2Proof.Machine

open Sys2Proof.Reference

/-! ### Fields -/

/-- Bits 30:0 of an encoding: exponent and fraction together. -/
def f32Bits (a : F32) : Nat := a.toNat % 2 ^ 31

theorem f32Bits_lt (a : F32) : f32Bits a < 2 ^ 31 := Nat.mod_lt _ (by decide)

theorem f32Exp_eq (a : F32) : f32Exp a = f32Bits a / 2 ^ 23 := by
  unfold f32Exp f32Bits; omega

theorem f32Frac_eq (a : F32) : f32Frac a = f32Bits a % 2 ^ 23 := by
  unfold f32Frac f32Bits; omega

theorem f32Sign_eq (a : F32) : f32Sign a = decide (2 ^ 31 ≤ a.toNat) :=
  BitVec.msb_eq_decide a

theorem finiteF32_iff {a : F32} : FiniteF32 a ↔ f32Bits a < 0x7F800000 := by
  have := f32Bits_lt a
  rw [FiniteF32, f32Exp_eq]; omega

theorem f32IsNaN_iff {a : F32} : f32IsNaN a = true ↔ 0x7F800000 < f32Bits a := by
  have := f32Bits_lt a
  simp only [f32IsNaN, f32Exp_eq, f32Frac_eq, Bool.and_eq_true, beq_iff_eq, bne_iff_ne]
  omega

theorem f32IsInf_iff {a : F32} : f32IsInf a = true ↔ f32Bits a = 0x7F800000 := by
  have := f32Bits_lt a
  simp only [f32IsInf, f32Exp_eq, f32Frac_eq, Bool.and_eq_true, beq_iff_eq]
  omega

theorem f32IsNaN_of_finite {a : F32} (h : FiniteF32 a) : f32IsNaN a = false :=
  Bool.eq_false_iff.mpr fun hn => by
    rw [f32IsNaN_iff] at hn; rw [finiteF32_iff] at h; omega

theorem f32IsInf_of_finite {a : F32} (h : FiniteF32 a) : f32IsInf a = false :=
  Bool.eq_false_iff.mpr fun hi => by
    rw [f32IsInf_iff] at hi; rw [finiteF32_iff] at h; omega

@[simp] theorem f32IsNaN_f32NaN : f32IsNaN f32NaN = true := by decide

/-! ### Packing a sign and bits 30:0 -/

theorem toNat_f32Pack (s : Bool) {b : Nat} (hb : b < 2 ^ 31) : (f32Pack s b).toNat = if s then 2 ^ 31 + b else b := by
  cases s <;> exact Nat.mod_eq_of_lt (by simp only [if_true, Bool.false_eq_true, if_false]; omega)

theorem f32Bits_f32Pack (s : Bool) {b : Nat} (hb : b < 2 ^ 31) : f32Bits (f32Pack s b) = b := by
  rw [f32Bits, toNat_f32Pack s hb]
  cases s <;> simp only [if_true, Bool.false_eq_true, if_false] <;> omega

theorem f32Sign_f32Pack (s : Bool) {b : Nat} (hb : b < 2 ^ 31) : f32Sign (f32Pack s b) = s := by
  rw [f32Sign_eq, toNat_f32Pack s hb]
  cases s
  · exact decide_eq_false (by simpa using hb)
  · exact decide_eq_true (Nat.le_add_right _ _)

theorem getLsbD_zero_f32Pack (s : Bool) {b : Nat} (hb : b < 2 ^ 31) : (f32Pack s b).getLsbD 0 = decide (b % 2 = 1) := by
  rw [BitVec.getLsbD, toNat_f32Pack s hb, Nat.testBit_zero]
  cases s
  · rfl
  · exact decide_eq_decide.mpr (by simp only [if_true]; omega)

theorem infinity_eq (s : Bool) : infinity s = f32Pack s 0x7F800000 := by cases s <;> rfl

theorem f32Inf_eq (s : Bool) : f32Inf s = infinity s := (infinity_eq s).symm

theorem zero_eq (s : Bool) : zero s = f32Pack s 0 := by cases s <;> rfl

theorem f32Bits_infinity (s : Bool) : f32Bits (infinity s) = 0x7F800000 := by cases s <;> rfl

@[simp] theorem f32IsInf_infinity (s : Bool) : f32IsInf (infinity s) = true := f32IsInf_iff.mpr (f32Bits_infinity s)

@[simp] theorem f32IsNaN_infinity (s : Bool) : f32IsNaN (infinity s) = false := by cases s <;> rfl

@[simp] theorem f32Sign_infinity (s : Bool) : f32Sign (infinity s) = s := by cases s <;> rfl

/-! ### Negation -/

@[simp] theorem f32Bits_f32Neg (a : F32) : f32Bits (f32Neg a) = f32Bits a := by
  rw [f32Bits, f32Neg, BitVec.toNat_xor, Nat.xor_mod_two_pow]
  exact Nat.xor_zero _

@[simp] theorem f32Sign_f32Neg (a : F32) : f32Sign (f32Neg a) = !f32Sign a := by
  simp [f32Sign, f32Neg]

theorem finiteF32_f32Neg {a : F32} : FiniteF32 (f32Neg a) ↔ FiniteF32 a := by
  rw [finiteF32_iff, finiteF32_iff, f32Bits_f32Neg]

@[simp] theorem f32IsNaN_f32Neg (a : F32) : f32IsNaN (f32Neg a) = f32IsNaN a := by
  rw [Bool.eq_iff_iff, f32IsNaN_iff, f32IsNaN_iff, f32Bits_f32Neg]

@[simp] theorem f32Neg_infinity (s : Bool) : f32Neg (infinity s) = infinity (!s) := by cases s <;> rfl

/-! ### Magnitudes -/

/-- The magnitude, in units of 2^-149, of bits 30:0 of an encoding; on every natural, so that the value after the largest finite one is the
one an unbounded exponent would give. -/
def bitsMag (b : Nat) : Nat :=
  if b / 2 ^ 23 = 0 then b % 2 ^ 23 else (2 ^ 23 + b % 2 ^ 23) * 2 ^ (b / 2 ^ 23 - 1)

theorem f32Mag_eq (a : F32) : f32Mag a = bitsMag (f32Bits a) := by
  rw [f32Mag, f32Exp_eq, f32Frac_eq, bitsMag]

/-- Digits `t` at the quantum `2^k`, a carry out of `t` included. -/
theorem bitsMag_quantum {k t : Nat} (hlo : k = 0 ∨ 2 ^ 23 ≤ t) (hhi : t ≤ 2 ^ 24) : bitsMag (k * 2 ^ 23 + t) = t * 2 ^ k := by
  obtain h | h | h : t < 2 ^ 23 ∨ (2 ^ 23 ≤ t ∧ t < 2 ^ 24) ∨ t = 2 ^ 24 := by omega
  · obtain rfl : k = 0 := by omega
    rw [bitsMag, if_pos (by omega)]
    omega
  · have hexp : (k * 2 ^ 23 + t) / 2 ^ 23 = k + 1 := by omega
    have hfrac : 2 ^ 23 + (k * 2 ^ 23 + t) % 2 ^ 23 = t := by omega
    rw [bitsMag, if_neg (by omega), hexp, hfrac, Nat.add_sub_cancel]
  · have hexp : (k * 2 ^ 23 + t) / 2 ^ 23 = k + 2 := by omega
    have hfrac : 2 ^ 23 + (k * 2 ^ 23 + t) % 2 ^ 23 = 2 ^ 23 := by omega
    rw [bitsMag, if_neg (by omega), hexp, hfrac, h, show k + 2 - 1 = k + 1 from rfl, Nat.pow_succ]
    ring

theorem bitsMag_strictMono : StrictMono bitsMag := by
  refine strictMono_nat_of_lt_succ fun b => ?_
  obtain ⟨k, t, rfl, hlo, hhi⟩ : ∃ k t, b = k * 2 ^ 23 + t ∧ (k = 0 ∨ 2 ^ 23 ≤ t) ∧ t < 2 ^ 24 :=
    ⟨b / 2 ^ 23 - 1, b - (b / 2 ^ 23 - 1) * 2 ^ 23, by omega, by omega, by omega⟩
  rw [bitsMag_quantum hlo hhi.le, Nat.add_assoc, bitsMag_quantum (by omega) hhi]
  exact Nat.mul_lt_mul_of_pos_right t.lt_succ_self (Nat.two_pow_pos k)

@[simp] theorem bitsMag_zero : bitsMag 0 = 0 := rfl

theorem f32Mag_infinity (s : Bool) : f32Mag (infinity s) = bitsMag 0x7F800000 := by
  rw [f32Mag_eq, f32Bits_infinity]

theorem f32Mag_lt_of_finite {a : F32} (h : FiniteF32 a) : f32Mag a < bitsMag 0x7F800000 := by
  rw [f32Mag_eq]
  exact bitsMag_strictMono (finiteF32_iff.mp h)

theorem bitsMag_maxFinite : bitsMag 0x7F7FFFFF = (2 ^ 24 - 1) * 2 ^ 253 :=
  bitsMag_quantum (k := 253) (t := 2 ^ 24 - 1) (.inr (by decide)) (by decide)

theorem bitsMag_infinity : bitsMag 0x7F800000 = 2 ^ 24 * 2 ^ 253 :=
  bitsMag_quantum (k := 253) (t := 2 ^ 24) (.inr (by decide)) (by decide)

/-- A multiple of a quantum with at most 24 digits is the magnitude of some bits. -/
theorem exists_bitsMag_eq (e : Nat) : ∀ m ≤ 2 ^ 24, ∃ b, bitsMag b = m * 2 ^ e := by
  induction e with
  | zero => exact fun m hm => ⟨0 * 2 ^ 23 + m, bitsMag_quantum (.inl rfl) hm⟩
  | succ e ih =>
    intro m hm
    by_cases hlo : 2 ^ 23 ≤ m
    · exact ⟨_, bitsMag_quantum (.inr hlo) hm⟩
    · obtain ⟨b, hb⟩ := ih (2 * m) (by omega)
      exact ⟨b, by rw [hb, Nat.pow_succ]; ring⟩

/-! ### Signed values -/

/-- The factor of a sign bit. -/
def signFactor (s : Bool) : ℤ := if s then -1 else 1

theorem signFactor_bne (s t : Bool) : signFactor (s != t) = signFactor s * signFactor t := by
  cases s <;> cases t <;> rfl

theorem f32Signed_eq (a : F32) : f32Signed a = signFactor (f32Sign a) * f32Mag a := by
  rw [f32Signed, signFactor]
  split <;> ring

@[simp] theorem f32Signed_f32Neg (a : F32) : f32Signed (f32Neg a) = -f32Signed a := by
  simp only [f32Signed_eq, f32Mag_eq, f32Bits_f32Neg, f32Sign_f32Neg]
  cases f32Sign a <;> simp [signFactor]

theorem f32Signed_eq_zero {a : F32} : f32Signed a = 0 ↔ f32Mag a = 0 := by
  rw [f32Signed]
  split <;> omega

theorem realValue_eq (a : F32) : realValue a = f32Signed a / 2 ^ 149 := by
  have hexp : f32Exp a ≠ 0 → (2 : ℚ) ^ ((f32Exp a : ℤ) - 150) = 2 ^ (f32Exp a - 1) / 2 ^ 149 := fun h => by
    rw [show (f32Exp a : ℤ) - 150 = ((f32Exp a - 1 : ℕ) : ℤ) - (149 : ℕ) by omega, zpow_sub₀ two_ne_zero, zpow_natCast,
      zpow_natCast]
  rw [realValue, f32Signed_eq, f32Mag, signFactor, f32Sign]
  by_cases h : f32Exp a = 0
  · simp only [h, if_true]
    push_cast
    rw [zpow_neg, show (149 : ℤ) = (149 : ℕ) from rfl, zpow_natCast]
    ring
  · simp only [h, if_false, hexp h]
    push_cast
    ring

theorem realValue_cast (a : F32) : (realValue a : ℝ) = f32Signed a / 2 ^ 149 := by
  rw [realValue_eq]
  push_cast
  rfl

theorem realValue_eq_zero {a : F32} : realValue a = 0 ↔ f32Mag a = 0 := by
  rw [realValue_eq, div_eq_zero_iff, or_iff_left (by positivity), Int.cast_eq_zero, f32Signed_eq_zero]

@[simp] theorem realValue_f32Neg (a : F32) : realValue (f32Neg a) = -realValue a := by
  rw [realValue_eq, realValue_eq, f32Signed_f32Neg]
  push_cast
  ring

end Sys2Proof.Machine
end

section
/-! SUPPORT. The one rounding of `roundMag` (00_scope.md R13, R15) as the choice of a nearest magnitude. -/

namespace Sys2Proof.Machine

open Sys2Proof.Reference

/-- Bits `r` have a magnitude nearest to `x` (in units of 2^-149), and are even where another magnitude is as near. -/
def NearestBits (x : ℝ) (r : Nat) : Prop :=
  ∀ b, |(bitsMag r : ℝ) - x| ≤ |(bitsMag b : ℝ) - x| ∧
    (|(bitsMag r : ℝ) - x| = |(bitsMag b : ℝ) - x| → bitsMag b ≠ bitsMag r → r % 2 = 0)

/-- Between neighbours `r` and `r + 1`, at most halfway up: `r` is nearest. -/
theorem nearestBits_of_lower {x : ℝ} {r : Nat} (hlo : (bitsMag r : ℝ) ≤ x)
    (hhalf : 2 * x ≤ (bitsMag r : ℝ) + bitsMag (r + 1))
    (htie : 2 * x = (bitsMag r : ℝ) + bitsMag (r + 1) → r % 2 = 0) : NearestBits x r := by
  intro b
  rw [abs_sub_comm, abs_of_nonneg (sub_nonneg.mpr hlo)]
  obtain hb | hb : b ≤ r ∨ r + 1 ≤ b := by omega
  · have hle : (bitsMag b : ℝ) ≤ bitsMag r := by exact_mod_cast bitsMag_strictMono.monotone hb
    rw [abs_sub_comm, abs_of_nonneg (by linarith)]
    refine ⟨by linarith, fun heq hne => absurd ?_ hne⟩
    exact_mod_cast (by linarith : (bitsMag b : ℝ) = bitsMag r)
  · have hle : (bitsMag (r + 1) : ℝ) ≤ bitsMag b := by exact_mod_cast bitsMag_strictMono.monotone hb
    rw [abs_of_nonneg (by linarith)]
    exact ⟨by linarith, fun heq _ => htie (by linarith)⟩

/-- Between neighbours `r` and `r + 1`, at least halfway up: `r + 1` is nearest. -/
theorem nearestBits_of_upper {x : ℝ} {r : Nat} (hhi : x ≤ bitsMag (r + 1))
    (hhalf : (bitsMag r : ℝ) + bitsMag (r + 1) ≤ 2 * x)
    (htie : (bitsMag r : ℝ) + bitsMag (r + 1) = 2 * x → (r + 1) % 2 = 0) : NearestBits x (r + 1) := by
  intro b
  rw [abs_of_nonneg (sub_nonneg.mpr hhi)]
  obtain hb | hb : b ≤ r ∨ r + 1 ≤ b := by omega
  · have hle : (bitsMag b : ℝ) ≤ bitsMag r := by exact_mod_cast bitsMag_strictMono.monotone hb
    rw [abs_sub_comm, abs_of_nonneg (by linarith)]
    exact ⟨by linarith, fun heq _ => htie (by linarith)⟩
  · have hle : (bitsMag (r + 1) : ℝ) ≤ bitsMag b := by exact_mod_cast bitsMag_strictMono.monotone hb
    rw [abs_of_nonneg (by linarith)]
    refine ⟨by linarith, fun heq hne => absurd ?_ hne⟩
    exact_mod_cast (by linarith : (bitsMag b : ℝ) = bitsMag (r + 1))

theorem NearestBits.le_of_lt_half {x : ℝ} {r m : Nat} (h : NearestBits x r)
    (hx : 2 * x < (bitsMag m : ℝ) + bitsMag (m + 1)) : r ≤ m := by
  by_contra hr
  have hsucc : (bitsMag m : ℝ) < bitsMag (m + 1) := by exact_mod_cast bitsMag_strictMono m.lt_succ_self
  have hle : (bitsMag (m + 1) : ℝ) ≤ bitsMag r := by exact_mod_cast bitsMag_strictMono.monotone (not_le.mp hr)
  have hcloser : |(bitsMag m : ℝ) - x| < bitsMag r - x := abs_lt.mpr ⟨by linarith, by linarith⟩
  exact absurd (h m).1 (not_le.mpr (hcloser.trans_le (le_abs_self _)))

theorem NearestBits.lt_of_half_le {x : ℝ} {r m : Nat} (h : NearestBits x r)
    (hx : (bitsMag m : ℝ) + bitsMag (m + 1) ≤ 2 * x) (hodd : m % 2 = 1) : m < r := by
  by_contra hr
  have hsucc : (bitsMag m : ℝ) < bitsMag (m + 1) := by exact_mod_cast bitsMag_strictMono m.lt_succ_self
  have hle : (bitsMag r : ℝ) ≤ bitsMag m := by exact_mod_cast bitsMag_strictMono.monotone (not_lt.mp hr)
  have hcloser : |(bitsMag (m + 1) : ℝ) - x| ≤ x - bitsMag r := abs_le.mpr ⟨by linarith, by linarith⟩
  have hdist : |(bitsMag r : ℝ) - x| = x - bitsMag r := by rw [abs_sub_comm, abs_of_nonneg (by linarith)]
  obtain ⟨hnear, htie⟩ := h (m + 1)
  have heven : r % 2 = 0 := htie (by linarith) fun heq => by
    rw [heq] at hsucc; linarith
  -- a tie with `m + 1` leaves `m` itself as the lower neighbour, and `m` is odd
  have hfar : 2 * x ≤ (bitsMag r : ℝ) + bitsMag (m + 1) := by
    rw [hdist] at hnear
    obtain habs | habs := abs_cases ((bitsMag (m + 1) : ℝ) - x) <;> linarith [habs.1]
  have heq : r = m := bitsMag_strictMono.injective (by exact_mod_cast (by linarith : (bitsMag r : ℝ) = bitsMag m))
  omega

/-! ### `roundMag` -/

/-- The quantum of `roundMag` leaves at most 24 digits, and 24 exactly where it is not the smallest. -/
theorem digits_at_quantum (m : Nat) :
    m / 2 ^ (Nat.log2 m - 23) < 2 ^ 24 ∧ (Nat.log2 m - 23 = 0 ∨ 2 ^ 23 ≤ m / 2 ^ (Nat.log2 m - 23)) := by
  constructor
  · refine Nat.div_lt_of_lt_mul ?_
    calc m < 2 ^ (Nat.log2 m + 1) := Nat.lt_log2_self
      _ ≤ 2 ^ (Nat.log2 m - 23 + 24) := Nat.pow_le_pow_right two_pos (by omega)
      _ = _ := by rw [Nat.pow_add]
  · obtain h | h : Nat.log2 m - 23 = 0 ∨ Nat.log2 m = 23 + (Nat.log2 m - 23) := by omega
    · exact .inl h
    · have hm : m ≠ 0 := by rintro rfl; simp at h
      refine .inr ((Nat.le_div_iff_mul_le (Nat.two_pow_pos _)).mpr ?_)
      rw [← Nat.pow_add, ← h]
      exact Nat.log2_self_le hm

/-- Digits `t` at the quantum `2^k` with remainder `r`, rounded by comparing twice the remainder with the quantum. -/
theorem nearestBits_of_digits {d k t r : Nat} (hd : 0 < d) (hlo : k = 0 ∨ 2 ^ 23 ≤ t) (hhi : t < 2 ^ 24) (hr : r < d * 2 ^ k) :
    NearestBits (((d * 2 ^ k * t + r : ℕ) : ℝ) / d)
      (k * 2 ^ 23 + if d * 2 ^ k < 2 * r ∨ (2 * r = d * 2 ^ k ∧ t % 2 = 1) then t + 1 else t) := by
  have hd' : (0 : ℝ) < d := by exact_mod_cast hd
  have hx : ((d * 2 ^ k * t + r : ℕ) : ℝ) / d = t * 2 ^ k + r / d := by
    push_cast; field_simp
  have hmag : (bitsMag (k * 2 ^ 23 + t) : ℝ) = t * 2 ^ k := by exact_mod_cast bitsMag_quantum hlo hhi.le
  have hmag' : (bitsMag (k * 2 ^ 23 + t + 1) : ℝ) = (t + 1) * 2 ^ k := by
    rw [Nat.add_assoc, bitsMag_quantum (t := t + 1) (by omega) hhi]
    push_cast
    rfl
  have hhalf : 2 * ((r : ℝ) / d) ≤ 2 ^ k ↔ 2 * r ≤ d * 2 ^ k := by
    rw [← mul_div_assoc, div_le_iff₀' hd']
    norm_cast
  have hhalf' : (2 : ℝ) ^ k ≤ 2 * (r / d) ↔ d * 2 ^ k ≤ 2 * r := by
    rw [← mul_div_assoc, le_div_iff₀' hd']
    norm_cast
  rw [hx]
  split_ifs with hup
  · have hle : (r : ℝ) / d ≤ 2 ^ k := by
      rw [div_le_iff₀' hd']
      exact_mod_cast hr.le
    have hge := hhalf'.mpr (by omega)
    rw [← Nat.add_assoc]
    refine nearestBits_of_upper (by rw [hmag']; linarith) (by rw [hmag, hmag']; linarith) fun htie => ?_
    rw [hmag, hmag'] at htie
    have := hhalf.mp (by linarith)
    omega
  · have hge : (0 : ℝ) ≤ r / d := by positivity
    have hle := hhalf.mpr (by omega)
    refine nearestBits_of_lower (by rw [hmag]; linarith) (by rw [hmag, hmag']; linarith) fun htie => ?_
    rw [hmag, hmag'] at htie
    have := hhalf'.mp (by linarith)
    omega

/-- `roundMag` is the nearest bits of `n / d`, cut off at the infinity. -/
theorem exists_nearestBits_roundMag (n : Nat) {d : Nat} (hd : 0 < d) :
    ∃ r, roundMag n d = min r 0x7F800000 ∧ NearestBits ((n : ℝ) / d) r := by
  obtain ⟨hhi, hlo⟩ := digits_at_quantum (n / d)
  rw [Nat.div_div_eq_div_mul] at hhi hlo
  have hnear := nearestBits_of_digits hd hlo hhi (Nat.mod_lt n (by positivity))
  rw [Nat.div_add_mod] at hnear
  exact ⟨_, rfl, hnear⟩

theorem roundMag_le (n d : Nat) : roundMag n d ≤ 0x7F800000 := Nat.min_le_right _ _

@[simp] theorem roundMag_zero (d : Nat) : roundMag 0 d = 0 := by simp [roundMag, Nat.log2_zero]

/-! ### From nearest magnitudes to `RoundsToF32`: the sign, the unit 2^-149 and the overflow -/

/-- The distance of a value from `x` units of 2^-149 of sign `s`: the difference of the magnitudes where the signs agree, their sum where
they do not. -/
theorem abs_realValue_sub (a : F32) (s : Bool) {x : ℝ} (hx : 0 ≤ x) :
    |(realValue a : ℝ) - signFactor s * x / 2 ^ 149| =
      (if f32Sign a = s then |(f32Mag a : ℝ) - x| else f32Mag a + x) / 2 ^ 149 := by
  rw [realValue_cast, f32Signed_eq, ← sub_div, abs_div, abs_of_pos (show (0 : ℝ) < 2 ^ 149 by positivity)]
  congr 1
  push_cast
  split_ifs with h
  · rw [h, ← mul_sub, abs_mul]
    cases s <;> simp [signFactor]
  · rw [Bool.eq_not_of_ne h]
    have hsum : (0 : ℝ) ≤ f32Mag a + x := by positivity
    cases s
    · rw [abs_sub_comm]
      simpa [signFactor, add_comm] using hsum
    · simpa [signFactor] using hsum

/-- Finite nearest bits under a sign are the value rounded to nearest: a value of the other sign is no nearer than zero is. -/
theorem roundsTo_f32Pack (s : Bool) {x : ℝ} {r : Nat} (hx : 0 ≤ x) (h : NearestBits x r) (hr : r < 0x7F800000) :
    RoundsTo (signFactor s * x / 2 ^ 149) (f32Pack s r) := by
  have hr' : r < 2 ^ 31 := by omega
  have hmag : f32Mag (f32Pack s r) = bitsMag r := by rw [f32Mag_eq, f32Bits_f32Pack s hr']
  have heven : (f32Pack s r).getLsbD 0 = false ↔ r % 2 = 0 := by
    rw [getLsbD_zero_f32Pack s hr', decide_eq_false_iff_not, Nat.mod_two_not_eq_one]
  refine ⟨finiteF32_iff.mpr (by rwa [f32Bits_f32Pack s hr']), fun b _ => ?_⟩
  rw [abs_realValue_sub _ s hx, abs_realValue_sub b s hx, if_pos (f32Sign_f32Pack s hr'), hmag, heven,
    div_le_div_iff_of_pos_right (by positivity), div_left_inj' (by positivity)]
  split_ifs with hs
  · obtain ⟨hnear, htie⟩ := h (f32Bits b)
    rw [← f32Mag_eq] at hnear htie
    refine ⟨hnear, fun heq hne => htie heq fun hb => hne ?_⟩
    rw [realValue_eq, realValue_eq, f32Signed_eq, f32Signed_eq, hs, f32Sign_f32Pack s hr', hb, hmag]
  · obtain ⟨hnear, htie⟩ := h 0
    rw [bitsMag_zero, Nat.cast_zero, zero_sub, abs_neg, abs_of_nonneg hx] at hnear htie
    have hb : (0 : ℝ) ≤ f32Mag b := Nat.cast_nonneg _
    refine ⟨by linarith, fun heq hne => htie (by linarith) fun h0 => hne ?_⟩
    have hb0 : f32Mag b = 0 := by exact_mod_cast (by linarith : (f32Mag b : ℝ) = 0)
    rw [realValue_eq_zero.mpr hb0, realValue_eq_zero.mpr (hmag.trans h0.symm)]

/-- The bound of `RoundsToF32` is halfway between the largest finite magnitude and the next. -/
theorem overflow_bound :
    2 * (((2 : ℝ) ^ 128 - 2 ^ 103) * 2 ^ 149) = (bitsMag 0x7F7FFFFF : ℝ) + bitsMag (0x7F7FFFFF + 1) := by
  rw [bitsMag_maxFinite, bitsMag_infinity]
  push_cast [Nat.cast_sub]
  norm_num

/-- The sign and `roundMag` give the rational `n / d` units of 2^-149 of that sign rounded once, overflow included. -/
theorem roundsToF32_roundMag (s : Bool) (n : Nat) {d : Nat} (hd : 0 < d) :
    RoundsToF32 (signFactor s * ((n : ℝ) / d) / 2 ^ 149) (f32Pack s (roundMag n d)) := by
  obtain ⟨r, hr, hnear⟩ := exists_nearestBits_roundMag n hd
  have hx : (0 : ℝ) ≤ n / d := by positivity
  generalize (n : ℝ) / d = x at hnear hx ⊢
  have hpos : (0 : ℝ) < 2 ^ 128 - 2 ^ 103 := by norm_num
  have hscaled : 0 ≤ x / 2 ^ 149 := by positivity
  have hover : (2 : ℝ) ^ 128 - 2 ^ 103 ≤ x / 2 ^ 149 → roundMag n d = 0x7F800000 := fun hle => by
    rw [le_div_iff₀ (by positivity)] at hle
    have := hnear.lt_of_half_le (m := 0x7F7FFFFF) (by linarith [overflow_bound]) (by decide)
    rw [hr, Nat.min_eq_right (by omega)]
  have hsign : (signFactor s : ℝ) * x / 2 ^ 149 = if s then -(x / 2 ^ 149) else x / 2 ^ 149 := by
    cases s <;> simp [signFactor, neg_div]
  have habs : |(signFactor s : ℝ) * x / 2 ^ 149| = x / 2 ^ 149 := by
    rw [hsign]
    cases s <;> simp [abs_of_nonneg hscaled]
  refine ⟨fun hlt => ?_, fun hle => ?_, fun hle => ?_⟩
  · rw [habs, div_lt_iff₀ (by positivity)] at hlt
    have hfin := hnear.le_of_lt_half (m := 0x7F7FFFFF) (by linarith [overflow_bound])
    rw [hr, Nat.min_eq_left (by omega)]
    exact roundsTo_f32Pack s hx hnear (by omega)
  · cases s <;> simp only [hsign, if_true, Bool.false_eq_true, if_false] at hle
    · rw [hover hle]
      rfl
    · linarith
  · cases s <;> simp only [hsign, if_true, Bool.false_eq_true, if_false] at hle
    · linarith
    · rw [hover (by linarith)]
      rfl

end Sys2Proof.Machine
end

section
/-! The scope's statements about numbers (00_scope.md R8, R13 to R16). -/

namespace Sys2Proof.Machine

open Sys2Proof.Reference

theorem sign_eq (a : F32) : sign a = f32Sign a := rfl

theorem sign_f32Pack_roundMag (s : Bool) (n d : Nat) : sign (f32Pack s (roundMag n d)) = s :=
  f32Sign_f32Pack s ((roundMag_le n d).trans_lt (by decide))

/-! ### Addition and subtraction -/

/-- The sign of a sum: of the two zeros where it is exactly zero. -/
def sumSign (a b : F32) : Bool :=
  if f32Signed a + f32Signed b = 0 then f32Sign a && f32Sign b else decide (f32Signed a + f32Signed b < 0)

theorem fadd_of_finite {a b : F32} (ha : FiniteF32 a) (hb : FiniteF32 b) :
    fadd a b = f32Pack (sumSign a b) (roundMag (f32Signed a + f32Signed b).natAbs 1) := by
  simp only [fadd, sumSign, f32IsNaN_of_finite, f32IsInf_of_finite, ha, hb, Bool.or_self, Bool.false_eq_true, if_false]
  split_ifs with h <;> simp [h]

theorem fadd_isNaN {a b : F32} (h : f32IsNaN a = true ∨ f32IsNaN b = true) : f32IsNaN (fadd a b) = true := by
  rw [fadd, if_pos (by simpa using h), f32IsNaN_f32NaN]

theorem fadd_infinity_right {a : F32} (ha : FiniteF32 a) (p : Bool) : fadd a (infinity p) = infinity p := by
  simp [fadd, f32IsNaN_of_finite ha, f32IsInf_of_finite ha]

theorem fadd_infinity_left {a : F32} (ha : FiniteF32 a) (p : Bool) : fadd (infinity p) a = infinity p := by
  simp [fadd, f32IsNaN_of_finite ha, f32IsInf_of_finite ha]

theorem fadd_infinity_self (p : Bool) : fadd (infinity p) (infinity p) = infinity p := by simp [fadd]

theorem fadd_infinity_opposite (p : Bool) : f32IsNaN (fadd (infinity p) (infinity (!p))) = true := by simp [fadd]

theorem signFactor_sumSign_mul (a b : F32) :
    signFactor (sumSign a b) * (f32Signed a + f32Signed b).natAbs = f32Signed a + f32Signed b := by
  unfold sumSign
  generalize f32Signed a + f32Signed b = z
  by_cases h0 : z = 0
  · simp [h0]
  · rw [if_neg h0, signFactor]
    simp only [decide_eq_true_iff]
    split_ifs <;> omega

theorem realValue_add (a b : F32) : realValue a + realValue b = (f32Signed a + f32Signed b : ℤ) / 2 ^ 149 := by
  rw [realValue_eq, realValue_eq, ← add_div, Int.cast_add]

theorem roundsToF32_fadd {a b : F32} (ha : FiniteF32 a) (hb : FiniteF32 b) :
    RoundsToF32 ((realValue a : ℝ) + realValue b) (fadd a b) := by
  have hval : (realValue a : ℝ) + realValue b =
      signFactor (sumSign a b) * (((f32Signed a + f32Signed b).natAbs : ℝ) / (1 : ℕ)) / 2 ^ 149 := by
    rw [← Rat.cast_add, realValue_add, Nat.cast_one, div_one, ← Int.cast_natCast, ← Int.cast_mul, signFactor_sumSign_mul]
    push_cast
    rfl
  rw [hval, fadd_of_finite ha hb]
  exact roundsToF32_roundMag _ _ one_pos

theorem fadd_exact_zero {a b : F32} (ha : FiniteF32 a) (hb : FiniteF32 b) (h : realValue a + realValue b = 0) :
    fadd a b = zero (sign a && sign b) := by
  rw [realValue_add, div_eq_zero_iff, or_iff_left (by positivity), Int.cast_eq_zero] at h
  rw [fadd_of_finite ha hb, sumSign, if_pos h, h, Int.natAbs_zero, roundMag_zero, zero_eq, sign_eq, sign_eq]

/-- Settles O53: `fadd` rounds the exact sum once, and `fsub` is `fadd` of the negated operand. -/
theorem additionRounds : Obligations.AdditionRounds := by
  refine ⟨fun a b ha hb => ⟨roundsToF32_fadd ha hb, ?_, fadd_exact_zero ha hb, fun h => ?_⟩,
    fun a b h => ⟨fadd_isNaN h, fadd_isNaN (by rwa [f32IsNaN_f32Neg])⟩, fun a p ha => ?_, fun p => ?_⟩
  · simpa [fsub, sub_eq_add_neg] using roundsToF32_fadd ha (finiteF32_f32Neg.mpr hb)
  · rw [fsub, fadd_exact_zero ha (finiteF32_f32Neg.mpr hb) (by rwa [realValue_f32Neg, ← sub_eq_add_neg])]
    simp only [sign_eq, f32Sign_f32Neg]
  · simp only [fsub, f32Neg_infinity]
    exact ⟨fadd_infinity_right ha p, fadd_infinity_left ha p, fadd_infinity_right ha _,
      fadd_infinity_left (finiteF32_f32Neg.mpr ha) p⟩
  · simp only [fsub, f32Neg_infinity, Bool.not_not]
    exact ⟨fadd_infinity_self p, fadd_infinity_opposite p, fadd_infinity_self p, fadd_infinity_opposite p⟩

/-! ### Multiplication and division -/

theorem fmul_of_finite {a b : F32} (ha : FiniteF32 a) (hb : FiniteF32 b) :
    fmul a b = f32Pack (f32Sign a != f32Sign b) (roundMag (f32Mag a * f32Mag b) (2 ^ 149)) := by
  simp [fmul, f32IsNaN_of_finite, f32IsInf_of_finite, ha, hb]

theorem fmul_isNaN {a b : F32} (h : f32IsNaN a = true ∨ f32IsNaN b = true) : f32IsNaN (fmul a b) = true := by
  simp only [fmul]
  rw [if_pos (by simpa using h), f32IsNaN_f32NaN]

theorem f32Mag_infinity_ne_zero (s : Bool) : f32Mag (infinity s) ≠ 0 := by
  rw [f32Mag_infinity, bitsMag_infinity]
  decide

theorem roundsToF32_fmul {a b : F32} (ha : FiniteF32 a) (hb : FiniteF32 b) :
    RoundsToF32 ((realValue a : ℝ) * realValue b) (fmul a b) := by
  have hval : (realValue a : ℝ) * realValue b =
      signFactor (f32Sign a != f32Sign b) * (((f32Mag a * f32Mag b : ℕ) : ℝ) / (2 ^ 149 : ℕ)) / 2 ^ 149 := by
    rw [realValue_cast, realValue_cast, f32Signed_eq, f32Signed_eq, signFactor_bne]
    push_cast
    ring
  rw [hval, fmul_of_finite ha hb]
  exact roundsToF32_roundMag _ _ (by positivity)

/-- Settles O54: the product of the magnitudes rounded once, under the product of the signs. -/
theorem multiplicationRounds : Obligations.MultiplicationRounds := by
  refine ⟨fun a b ha hb => ⟨roundsToF32_fmul ha hb, ?_⟩, fun a b => fmul_isNaN, fun a p ha => ⟨fun h0 => ?_, fun h0 => ?_⟩,
    fun p q => ?_⟩
  · rw [fmul_of_finite ha hb, sign_f32Pack_roundMag, sign_eq, sign_eq]
  · simp [fmul, f32IsNaN_of_finite ha, realValue_eq_zero.mp h0]
  · have hmag : f32Mag a ≠ 0 := mt realValue_eq_zero.mpr h0
    simp [fmul, f32IsNaN_of_finite ha, hmag, f32Mag_infinity_ne_zero, f32Inf_eq, sign_eq]
  · simp [fmul, f32Mag_infinity_ne_zero, f32Inf_eq]

theorem fdiv_of_finite {a b : F32} (ha : FiniteF32 a) (hb : FiniteF32 b) (h0 : f32Mag b ≠ 0) :
    fdiv a b = f32Pack (f32Sign a != f32Sign b) (roundMag (f32Mag a * 2 ^ 149) (f32Mag b)) := by
  simp [fdiv, f32IsNaN_of_finite, f32IsInf_of_finite, ha, hb, h0]

theorem fdiv_isNaN {a b : F32} (h : f32IsNaN a = true ∨ f32IsNaN b = true) : f32IsNaN (fdiv a b) = true := by
  simp only [fdiv]
  rw [if_pos (by simpa using h), f32IsNaN_f32NaN]

theorem fdiv_by_zero {a b : F32} (ha : FiniteF32 a) (hb : FiniteF32 b) (h0 : f32Mag b = 0) :
    fdiv a b = if f32Mag a = 0 then f32NaN else infinity (f32Sign a != f32Sign b) := by
  simp [fdiv, f32IsNaN_of_finite, f32IsInf_of_finite, ha, hb, h0, f32Inf_eq]

theorem roundsToF32_fdiv {a b : F32} (ha : FiniteF32 a) (hb : FiniteF32 b) (h0 : f32Mag b ≠ 0) :
    RoundsToF32 ((realValue a : ℝ) / realValue b) (fdiv a b) := by
  have hval : (realValue a : ℝ) / realValue b =
      signFactor (f32Sign a != f32Sign b) * (((f32Mag a * 2 ^ 149 : ℕ) : ℝ) / f32Mag b) / 2 ^ 149 := by
    rw [realValue_cast, realValue_cast, f32Signed_eq, f32Signed_eq]
    cases f32Sign a <;> cases f32Sign b <;> simp [signFactor] <;> ring
  rw [hval, fdiv_of_finite ha hb h0]
  exact roundsToF32_roundMag _ _ (Nat.pos_of_ne_zero h0)

/-- Settles O55: the quotient of the magnitudes rounded once, under the quotient of the signs. -/
theorem divisionRounds : Obligations.DivisionRounds := by
  refine ⟨fun a b ha hb h0 => ?_, fun a b ha hb h0 => ?_, fun a b => fdiv_isNaN, fun a p ha => ?_, fun p q => ?_⟩
  · have hmag : f32Mag b ≠ 0 := mt realValue_eq_zero.mpr h0
    refine ⟨roundsToF32_fdiv ha hb hmag, ?_⟩
    rw [fdiv_of_finite ha hb hmag, sign_f32Pack_roundMag, sign_eq, sign_eq]
  · rw [fdiv_by_zero ha hb (realValue_eq_zero.mp h0)]
    refine ⟨fun h => ?_, fun h => ?_⟩
    · rw [if_neg (mt realValue_eq_zero.mpr h), sign_eq, sign_eq]
    · rw [if_pos (realValue_eq_zero.mp h), f32IsNaN_f32NaN]
  · simp [fdiv, f32IsNaN_of_finite ha, f32IsInf_of_finite ha, f32Inf_eq, zero_eq, sign_eq]
  · simp [fdiv]

/-! ### Comparison -/

theorem flt_of_not_isNaN {a b : F32} (ha : f32IsNaN a = false) (hb : f32IsNaN b = false) :
    flt a b = decide (f32Signed a < f32Signed b) := by simp [flt, ha, hb]

theorem realValue_lt_iff (a b : F32) : realValue a < realValue b ↔ f32Signed a < f32Signed b := by
  rw [realValue_eq, realValue_eq, div_lt_div_iff_of_pos_right (by positivity), Int.cast_lt]

/-- A finite value lies strictly between the magnitudes `f32Signed` gives the infinities. -/
theorem f32Signed_finite_bounds {a : F32} (h : FiniteF32 a) :
    f32Signed (infinity true) < f32Signed a ∧ f32Signed a < f32Signed (infinity false) := by
  have hlt := f32Mag_lt_of_finite h
  rw [← f32Mag_infinity true] at hlt
  have hmag : f32Mag (infinity false) = f32Mag (infinity true) := by rw [f32Mag_infinity, f32Mag_infinity]
  simp only [f32Signed, f32Sign_infinity, if_true, Bool.false_eq_true, if_false, hmag]
  split <;> omega

/-- Settles O57: `flt` compares `f32Signed`, which is the real value in units of 2^-149. -/
theorem comparisonIsRealOrder : Obligations.ComparisonIsRealOrder := by
  refine fun a b => ⟨rfl, fun h => ?_, fun ha hb => ?_, fun ha => ?_, ?_⟩
  · rw [flt]
    obtain h | h := h <;> simp [h]
  · rw [flt_of_not_isNaN (f32IsNaN_of_finite ha) (f32IsNaN_of_finite hb), decide_eq_true_iff, realValue_lt_iff]
  · obtain ⟨hneg, hpos⟩ := f32Signed_finite_bounds ha
    change flt a (infinity false) = true ∧ flt (infinity true) a = true ∧ flt (infinity false) a = false ∧
      flt a (infinity true) = false
    simp [flt_of_not_isNaN, f32IsNaN_of_finite ha, hneg, hpos, hneg.le, hpos.le]
  · decide

/-! ### Saturation to a byte -/

theorem realValue_nonpos_iff (a : F32) : realValue a ≤ 0 ↔ f32Signed a ≤ 0 := by
  rw [realValue_eq, div_le_iff₀ (by positivity), zero_mul, Int.cast_nonpos]

theorem f32Signed_of_pos {a : F32} (h : 0 < f32Signed a) : f32Signed a = f32Mag a := by
  rw [f32Signed] at h ⊢
  split_ifs at h ⊢ <;> omega

theorem realValue_of_pos {a : F32} (h : 0 < realValue a) : 0 < f32Signed a ∧ realValue a = f32Mag a / 2 ^ 149 := by
  have hpos : 0 < f32Signed a := not_le.mp (mt (realValue_nonpos_iff a).mpr (not_le.mpr h))
  exact ⟨hpos, by rw [realValue_eq, f32Signed_of_pos hpos, Int.cast_natCast]⟩

theorem satU8_of_finite {a : F32} (h : FiniteF32 a) :
    satU8 a = if f32Signed a ≤ 0 then 0 else if 255 * 2 ^ 149 ≤ f32Mag a then 255 else BitVec.ofNat 8 (f32Mag a / 2 ^ 149) :=
  if_neg (by simp [f32IsNaN_of_finite h])

/-- Settles O56, by the branches of `satU8`. -/
theorem saturationToByte : Obligations.SaturationToByte := by
  refine fun a => ⟨fun h => if_pos h, by decide, by decide, fun ha h => ?_, fun ha h => ?_, fun ha h h' => ?_⟩
  · rw [satU8_of_finite ha, if_pos ((realValue_nonpos_iff a).mp h)]
  · obtain ⟨hpos, hval⟩ := realValue_of_pos (a := a) (by linarith)
    rw [hval, le_div_iff₀ (by positivity)] at h
    rw [satU8_of_finite ha, if_neg (not_le.mpr hpos), if_pos (by exact_mod_cast h)]
  · obtain ⟨hpos, hval⟩ := realValue_of_pos h
    rw [hval, div_lt_iff₀ (by positivity)] at h'
    have hlt : f32Mag a < 255 * 2 ^ 149 := by exact_mod_cast h'
    have hbyte : f32Mag a / 2 ^ 149 < 2 ^ 8 := (Nat.div_lt_of_lt_mul (by omega)).trans (by decide : 255 < 2 ^ 8)
    have hfloor : ⌊(f32Mag a : ℚ) / 2 ^ 149⌋₊ = f32Mag a / 2 ^ 149 := by
      exact_mod_cast Nat.floor_div_eq_div (K := ℚ) (f32Mag a) (2 ^ 149)
    rw [satU8_of_finite ha, if_neg (not_le.mpr hpos), if_neg (not_le.mpr hlt), hval, hfloor, BitVec.toNat_ofNat,
      Nat.mod_eq_of_lt hbyte]

/-! ### Integers -/

/-- The digit-by-digit root keeps `r ≤ √n < r + 2^k`. -/
theorem isqrtBits_eq_sqrt (k : Nat) : ∀ {n r : Nat}, r * r ≤ n → n < (r + 2 ^ k) * (r + 2 ^ k) → isqrtBits k n r = Nat.sqrt n := by
  induction k with
  | zero => exact fun hlo hhi => Nat.eq_sqrt.mpr ⟨hlo, hhi⟩
  | succ k ih =>
    intro n r hlo hhi
    rw [isqrtBits]
    split_ifs with h
    · exact ih h (by rwa [Nat.add_assoc, ← Nat.two_mul, ← Nat.pow_succ'])
    · exact ih hlo (not_le.mp h)

theorem isqrt_eq_sqrt (n : Nat) : isqrt n = Nat.sqrt n := by
  refine isqrtBits_eq_sqrt _ (Nat.zero_le n) ?_
  calc n < 2 ^ (Nat.log2 n + 1) := Nat.lt_log2_self
    _ ≤ 2 ^ ((Nat.log2 n / 2 + 1) + (Nat.log2 n / 2 + 1)) := Nat.pow_le_pow_right two_pos (by omega)
    _ = _ := by rw [Nat.pow_add, Nat.zero_add]

/-- A magnitude with an encoding rounds to that encoding. -/
theorem roundMag_bitsMag {b : Nat} (hb : b ≤ 0x7F800000) : roundMag (bitsMag b) 1 = b := by
  obtain ⟨r, hr, hnear⟩ := exists_nearestBits_roundMag (bitsMag b) one_pos
  have hzero := (hnear b).1
  rw [Nat.cast_one, div_one, sub_self, abs_zero, abs_nonpos_iff, sub_eq_zero, Nat.cast_inj] at hzero
  rw [hr, bitsMag_strictMono.injective hzero, Nat.min_eq_left hb]

theorem f32OfNat_exact {n : Nat} (hn : n ≤ 2 ^ 24) : FiniteF32 (f32OfNat n) ∧ realValue (f32OfNat n) = n := by
  obtain ⟨b, hb⟩ := exists_bitsMag_eq 149 n hn
  have hfin : b < 0x7F800000 := bitsMag_strictMono.lt_iff_lt.mp (by
    rw [hb, bitsMag_infinity]
    exact (Nat.mul_le_mul_right _ hn).trans_lt (by decide))
  have hbits : f32Bits (f32OfNat n) = b := by
    rw [f32OfNat, ← hb, roundMag_bitsMag hfin.le, f32Bits_f32Pack _ (by omega)]
  have hsign : f32Sign (f32OfNat n) = false := sign_f32Pack_roundMag _ _ _
  refine ⟨finiteF32_iff.mpr (hbits ▸ hfin), ?_⟩
  have hmag : f32Mag (f32OfNat n) = n * 2 ^ 149 := by rw [f32Mag_eq, hbits, hb]
  rw [realValue_eq, f32Signed, hsign, if_neg Bool.false_ne_true, hmag]
  push_cast
  exact mul_div_cancel_right₀ _ (by positivity)

/-- Settles O58: at most 24 digits are a magnitude exactly, and the root is fixed bit by bit. -/
theorem integerHelpersAreExact : Obligations.IntegerHelpersAreExact :=
  ⟨fun _ => f32OfNat_exact, isqrt_eq_sqrt⟩

end Sys2Proof.Machine
end

section
/-! SUPPORT. One inversion lemma for the step: everything a turn of the agenda can do to the state. -/

namespace Sys2Proof.Machine

open Sys2Proof.Reference

/-! ### Words and window offsets -/

theorem wordBytes_wordOfBytes (b0 b1 b2 b3 : Byte) : wordBytes (wordOfBytes b0 b1 b2 b3) = [b0, b1, b2, b3] := by
  simp only [wordBytes, wordOfBytes, List.cons.injEq, and_true]
  refine ⟨?_, ?_, ?_, ?_⟩ <;>
  · ext i hi
    simp only [BitVec.getElem_extractLsb', BitVec.getLsbD_append]
    grind

theorem regAt_eq_ctrl {off : Nat} (h : regAt off = some .ctrl) : off = 0x010 := by
  unfold regAt at h
  split at h <;> cases h
  rfl

/-- Everything a transaction that writes the window can do. -/
theorem writeOffset_cases (off : Nat) (v : Word) (s : State) :
    (off = 0x010 ∧ writeOffset off v s = exec (decodeCtrl v) s) ∨
    writeOffset off v s = exec (decodeStatus v) s ∨
    (∃ r, writeOffset off v s = .next (writeParam r v s)) ∨
    writeOffset off v s = .next s := by
  rcases h : regAt off with _ | r
  · simp [writeOffset, h]
  · cases r with
    | ctrl => exact .inl ⟨regAt_eq_ctrl h, by simp [writeOffset, h]⟩
    | status => exact .inr (.inl (by simp [writeOffset, h]))
    | param r => exact .inr (.inr (.inl ⟨r, by simp [writeOffset, h]⟩))
    | id | version | caps | capsDim | outW | outH => exact .inr (.inr (.inr (by simp [writeOffset, h])))

/-! ### Commands -/

theorem commandOp_of_decodeCommand {w : Word} {i : Instr} (h : decodeCommand w = .ok i) : ∃ op vis, commandOp i = some (op, vis) := by
  simp only [decodeCommand] at h
  split_ifs at h
  split at h
  · cases h
    rename_i hc
    unfold commandOf at hc
    split at hc <;> cases hc <;> exact ⟨_, _, rfl⟩
  · cases h

/-- Every command is EXEC of its operation, with a computation of its own. -/
theorem exec_eq_execCommand {i : Instr} {op : Op} {vis : Bool} (h : commandOp i = some (op, vis)) (s : State) :
    ∃ compute, exec i s = .next (execCommand op vis compute s) := by
  cases i <;> cases h <;> exact ⟨_, rfl⟩

/-! ### The effect of a turn -/

/-- `TurnEffect s turn t`: from s, with the turn taken off the agenda, the turn may lead to t. -/
inductive TurnEffect (s : State) : Turn → State → Prop
  /-- EXEC is not enabled while IDLE (40_command_control.md R110). -/
  | engineIdle (hidle : s.seq = .idle) : TurnEffect s .engine s
  /-- E_ILLEGAL (30_encoding.md R93). -/
  | illegal (hbusy : s.seq = .busy) (hcmd : latchedCommand s.latch = none) : TurnEffect s .engine (completeError .illegal s)
  /-- EXEC of a legal command word (40_command_control.md R110). -/
  | exec (op : Op) (vis : Bool) (compute : Config → Params → Memory → Result) (hbusy : s.seq = .busy)
      (hcmd : latchedCommand s.latch = some (op, vis)) : TurnEffect s .engine (execCommand op vis compute s)
  /-- A read of a register, or of memory without hazard. -/
  | read (addr : Word) (len : Nat) (data : List Byte) : TurnEffect s (.read addr len) { s with hostData := data }
  /-- A refused read of the window (30_encoding.md R86). -/
  | readRefused (addr : Word) (len : Nat) (hwin : hitsWindow s.cfg addr.toNat len = true) :
      TurnEffect s (.read addr len) (returnFree len (markRefused s))
  /-- A read of memory inside the running command's outputs (70_reset_and_hazards.md R227). -/
  | readHazard (addr : Word) (len : Nat) (hbusy : s.seq = .busy) (hwin : hitsWindow s.cfg addr.toNat len = false) :
      TurnEffect s (.read addr len) (returnFree len (markHazard s))
  /-- A write of memory; `hazard` says whether it lies inside the running command's ranges (R226, R227). -/
  | memWrite (addr : Word) (data : List Byte) (hazard : Bool) (hbusy : hazard = true → s.seq = .busy)
      (hwin : hitsWindow s.cfg addr.toNat data.length = false) :
      TurnEffect s (.write addr data) { s with
        hazard := s.hazard || hazard
        torn := s.torn || hazard
        mem := s.mem.writeBytes addr.toNat data }
  /-- A refused write of the window (30_encoding.md R86). -/
  | writeRefused (addr : Word) (data : List Byte) (hwin : hitsWindow s.cfg addr.toNat data.length = true) :
      TurnEffect s (.write addr data) (markRefused s)
  /-- A write of a read-only register or of a reserved offset (40_command_control.md R116). -/
  | writeIgnored (addr : Word) (data : List Byte) (hwin : hitsWindow s.cfg addr.toNat data.length = true) :
      TurnEffect s (.write addr data) s
  /-- A write of a parameter register (R105). -/
  | writeParam (addr : Word) (data : List Byte) (r : ParamReg) (v : Word)
      (hwin : hitsWindow s.cfg addr.toNat data.length = true) : TurnEffect s (.write addr data) (writeParam r v s)
  /-- A write of STATUS (R115). -/
  | clear (addr : Word) (data : List Byte) (done err degen : Bool) (hwin : hitsWindow s.cfg addr.toNat data.length = true) :
      TurnEffect s (.write addr data) (clearFlags done err degen s)
  /-- A write of CTRL with bits 1:0 = 2 or 3 (R106). -/
  | softReset (addr v : Word) (haddr : addr.toNat = s.cfg.engineBase.toNat + 0x010) (hsrst : v.getLsbD 1 = true) :
      TurnEffect s (.write addr (wordBytes v)) (resetBlock s)
  /-- A write of CTRL with bits 1:0 = 1 (R106, R107). -/
  | start (addr v : Word) (haddr : addr.toNat = s.cfg.engineBase.toNat + 0x010) (hsrst : v.getLsbD 1 = false)
      (hstart : v.getLsbD 0 = true) : TurnEffect s (.write addr (wordBytes v)) (startCommand { s with irqEn := v.getLsbD 2 })
  /-- A write of CTRL with bits 1:0 = 0 (R106). -/
  | setIrq (addr v : Word) (haddr : addr.toNat = s.cfg.engineBase.toNat + 0x010) (hsrst : v.getLsbD 1 = false)
      (hstart : v.getLsbD 0 = false) : TurnEffect s (.write addr (wordBytes v)) { s with irqEn := v.getLsbD 2 }
  /-- The last read of a poll (30_encoding.md R98). -/
  | pollEnds (addr mask value : Word) {t : State} (hread : TurnEffect s (.read addr 4) t) :
      TurnEffect s (.poll addr mask value) t
  /-- A read of a poll that goes on (R98). -/
  | pollAgain (addr mask value : Word) {t : State} (hread : TurnEffect s (.read addr 4) t) :
      TurnEffect s (.poll addr mask value) (again (.poll addr mask value) t)
  /-- The IRQ line is up (R97). -/
  | waitEnds : TurnEffect s .waitIrq s
  /-- The host goes on waiting. -/
  | waitAgain : TurnEffect s .waitIrq (again .waitIrq s)
  /-- The reset input (70_reset_and_hazards.md R220). -/
  | reset : TurnEffect s .reset (resetBlock s)

variable {s t : State}

theorem engineTurn_effect (h : engineTurn s = .next t) : TurnEffect s .engine t := by
  cases hseq : s.seq with
  | idle =>
    simp only [engineTurn, hseq, Host.Outcome.next.injEq] at h
    exact h ▸ .engineIdle hseq
  | busy =>
    cases hdec : decodeCommand s.latch.cmd with
    | error e =>
      simp only [engineTurn, hseq, hdec, Host.Outcome.next.injEq] at h
      exact h ▸ .illegal hseq (by simp [latchedCommand, hdec])
    | ok i =>
      simp only [engineTurn, hseq, hdec] at h
      obtain ⟨op, vis, hop⟩ := commandOp_of_decodeCommand hdec
      obtain ⟨compute, hexec⟩ := exec_eq_execCommand hop s
      rw [hexec, Host.Outcome.next.injEq] at h
      exact h ▸ .exec op vis compute hseq (by simp [latchedCommand, hdec, hop])

theorem hostRead_effect {addr : Word} {len : Nat} (h : hostRead addr len s = .next t) : TurnEffect s (.read addr len) t := by
  cases hwin : hitsWindow s.cfg addr.toNat len with
  | true =>
    simp only [hostRead, hwin, if_true] at h
    split at h <;> cases h
    · exact .read addr len _
    · exact .readRefused addr len hwin
  | false =>
    simp only [hostRead, hwin, Bool.false_eq_true, if_false] at h
    rcases hostMemRead_cases addr.toNat len s with ⟨-, heq⟩ | ⟨-, htouch, heq⟩ | ⟨-, -, heq⟩ <;> rw [heq] at h <;> cases h
    · exact .readHazard addr len (busy_of_touches_protected (.inr htouch)) hwin
    · exact .read addr len _

theorem ctrlWrite_effect {addr v : Word} (haddr : addr.toNat = s.cfg.engineBase.toNat + 0x010)
    (h : exec (decodeCtrl v) s = .next t) : TurnEffect s (.write addr (wordBytes v)) t := by
  unfold decodeCtrl at h
  split_ifs at h with hsrst hstart <;> cases h
  · exact .softReset addr v haddr hsrst
  · exact .start addr v haddr (Bool.eq_false_iff.mpr hsrst) hstart
  · exact .setIrq addr v haddr (Bool.eq_false_iff.mpr hsrst) (Bool.eq_false_iff.mpr hstart)

theorem writeOffset_effect {addr v : Word} (hwin : hitsWindow s.cfg addr.toNat (wordBytes v).length = true)
    (h : writeOffset (addr.toNat - s.cfg.engineBase.toNat) v s = .next t) : TurnEffect s (.write addr (wordBytes v)) t := by
  rcases writeOffset_cases (addr.toNat - s.cfg.engineBase.toNat) v s with ⟨hoff, heq⟩ | heq | ⟨r, heq⟩ | heq <;> rw [heq] at h
  · exact ctrlWrite_effect (by omega) h
  · cases h
    exact .clear addr _ _ _ _ hwin
  · cases h
    exact .writeParam addr _ r v hwin
  · cases h
    exact .writeIgnored addr _ hwin

theorem hostWrite_effect {addr : Word} {data : List Byte} (h : hostWrite addr data s = .next t) :
    TurnEffect s (.write addr data) t := by
  cases hwin : hitsWindow s.cfg addr.toNat data.length with
  | true =>
    simp only [hostWrite, hwin, if_true] at h
    split at h
    · rename_i b0 b1 b2 b3 _
      rw [← wordBytes_wordOfBytes b0 b1 b2 b3] at hwin ⊢
      exact writeOffset_effect hwin h
    · cases h
      exact .writeRefused addr _ hwin
  | false =>
    simp only [hostWrite, hwin, Bool.false_eq_true, if_false] at h
    rcases hostMemWrite_cases addr.toNat data s with ⟨-, heq⟩ | ⟨-, hazard, htouch, heq⟩ <;> rw [heq] at h <;> cases h
    exact .memWrite addr data hazard (fun hh => busy_of_touches_protected (.inl (htouch ▸ hh))) hwin

theorem pollTurn_effect {addr mask value : Word} (h : pollTurn addr mask value s = .next t) :
    TurnEffect s (.poll addr mask value) t := by
  rw [pollTurn] at h
  split at h
  · rename_i hread
    split at h <;> cases h
    · exact .pollEnds addr mask value (hostRead_effect hread)
    · exact .pollAgain addr mask value (hostRead_effect hread)
  · cases h
  · cases h

/-- A turn does nothing but the effects listed. -/
theorem takeTurn_effect {turn : Turn} (h : takeTurn turn s = .next t) : TurnEffect s turn t := by
  cases turn with
  | engine => exact engineTurn_effect h
  | read addr len => exact hostRead_effect h
  | write addr data => exact hostWrite_effect h
  | poll addr mask value => exact pollTurn_effect h
  | waitIrq =>
    cases h
    split
    · exact .waitEnds
    · exact .waitAgain
  | reset =>
    cases h
    exact .reset

/-- The turn a step takes: the agenda's first, or the engine's (log 25). -/
def nextTurn (s : State) : Turn := s.agenda.headD .engine

theorem step_eq_takeTurn (s : State) : step s = takeTurn (nextTurn s) (afterTurn s) := by
  cases hagenda : s.agenda with
  | nil =>
    have hafter : afterTurn s = s := by rw [afterTurn, hagenda, List.tail_nil, ← hagenda]
    simp [step, hagenda, nextTurn, takeTurn, hafter]
  | cons turn rest => simp [step, hagenda, nextTurn, afterTurn]

theorem step_effect (h : step s = .next t) : TurnEffect (afterTurn s) (nextTurn s) t :=
  takeTurn_effect (step_eq_takeTurn s ▸ h)

theorem engineNext_of_nextTurn (h : nextTurn s = .engine) : engineNext s := by
  cases hagenda : s.agenda with
  | nil => exact .inl hagenda
  | cons turn rest => exact .inr (by simpa [nextTurn, hagenda] using h)

theorem head?_agenda_of_nextTurn {turn : Turn} (h : nextTurn s = turn) (hne : turn ≠ .engine) : s.agenda.head? = some turn := by
  cases hagenda : s.agenda with
  | nil => exact absurd (by simpa [nextTurn, hagenda] using h.symm) hne
  | cons first rest => simpa [nextTurn, hagenda] using h

end Sys2Proof.Machine
end

section
/-! SUPPORT. The invariant of every reachable state, for each operation and then for the step. -/

namespace Sys2Proof.Machine

open Sys2Proof.Reference

variable {s t : State}

theorem CmdError.code_ne_zero (e : CmdError) : e.code ≠ 0 := by cases e <;> decide

theorem CmdError.code_le_six (e : CmdError) : e.code.toNat ≤ 6 := by cases e <;> decide

theorem State.Inv.errcode_eq_zero (h : s.Inv) (herr : s.err = false) : s.errcode = 0 :=
  not_not.mp fun hne => Bool.false_ne_true (herr.symm.trans (h.errcodeErr.mp hne))

/-- Settles O47. -/
theorem resetMeetsInvariant : Obligations.ResetMeetsInvariant where
  memWf := rfl
  busyFlags := nofun
  doneOrErr := nofun
  errcodeErr := by decide
  errcodeRange := by decide
  latchParams := nofun
  tornBusy := nofun

/-! ### The operations of the block -/

theorem completeError_inv (e : CmdError) (hmem : s.mem.wf = true) : (completeError e s).Inv where
  memWf := hmem
  busyFlags := nofun
  doneOrErr := nofun
  errcodeErr := iff_of_true e.code_ne_zero rfl
  errcodeRange := e.code_le_six
  latchParams := nofun
  tornBusy := nofun

theorem completeOk_inv (ow oh : Nat) (degen : Bool) (hmem : s.mem.wf = true) (herr : s.err = false) (hcode : s.errcode = 0) :
    (completeOk ow oh degen s).Inv where
  memWf := hmem
  busyFlags := nofun
  doneOrErr := by simp [herr]
  errcodeErr := by simp [herr, hcode]
  errcodeRange := by simp [hcode]
  latchParams := nofun
  tornBusy := nofun

theorem State.Inv.execCommand (h : s.Inv) (op : Op) (vis : Bool) (compute : Config → Params → Memory → Result) :
    (execCommand op vis compute s).Inv := by
  have herr (hbusy : s.seq = .busy) : s.err = false ∧ s.errcode = 0 :=
    have he := (h.busyFlags hbusy).2.1
    ⟨he, h.errcode_eq_zero he⟩
  rcases execCommand_cases op vis compute s with
    ⟨-, heq⟩ | ⟨e, -, -, heq⟩ | ⟨-, -, -, heq⟩ | ⟨hbusy, -, -, -, heq⟩ | ⟨hrun, heq⟩ <;> rw [heq]
  · exact h
  · exact completeError_inv e h.memWf
  · exact completeError_inv .bus (scrambleOutputs_wf h.memWf op vis)
  · exact completeOk_inv _ _ _ (scrambleOutputs_wf h.memWf op vis) (herr hbusy).1 (herr hbusy).2
  · exact completeOk_inv _ _ _ (Memory.wf_writeWords (Memory.wf_writeWords h.memWf _ _) _ _) (herr hrun.busy).1
      (herr hrun.busy).2

theorem State.Inv.startCommand (h : s.Inv) : (startCommand s).Inv := by
  rcases startCommand_cases s with ⟨-, heq⟩ | ⟨-, heq⟩ <;> rw [heq]
  · exact h
  · exact {
      memWf := h.memWf
      busyFlags := fun _ => ⟨rfl, rfl, rfl⟩
      doneOrErr := nofun
      errcodeErr := by simp
      errcodeRange := by simp
      latchParams := fun _ => rfl
      tornBusy := nofun }

theorem resetBlock_inv (hmem : s.mem.wf = true) : (resetBlock s).Inv where
  memWf := resetBlock_wf hmem
  busyFlags := nofun
  doneOrErr := nofun
  errcodeErr := by simp
  errcodeRange := by simp
  latchParams := nofun
  tornBusy := nofun

theorem State.Inv.clearFlags (h : s.Inv) (done err degen : Bool) : (clearFlags done err degen s).Inv where
  memWf := h.memWf
  busyFlags hbusy := by
    obtain ⟨hd, he, hg⟩ := h.busyFlags hbusy
    simp [hd, he, hg]
  doneOrErr := by
    have := h.doneOrErr
    simp only [clearFlags_done, clearFlags_err, Bool.and_eq_true]
    tauto
  errcodeErr := by
    cases err with
    | true => simp
    | false => simpa using h.errcodeErr
  errcodeRange := by
    cases err with
    | true => simp
    | false => exact h.errcodeRange
  latchParams := h.latchParams
  tornBusy := h.tornBusy

theorem State.Inv.writeParam (h : s.Inv) (r : ParamReg) (v : Word) : (writeParam r v s).Inv := by
  cases hseq : s.seq with
  | busy => rwa [show Machine.writeParam r v s = s by simp [Machine.writeParam, hseq]]
  | idle =>
    rw [show Machine.writeParam r v s = { s with params := s.params.set r v } by simp [Machine.writeParam, hseq]]
    exact { h with latchParams := fun hbusy => nomatch hseq.symm.trans hbusy }

/-! ### Host accesses -/

theorem State.Inv.markHazard (h : s.Inv) (hbusy : s.seq = .busy) : (markHazard s).Inv :=
  { h with tornBusy := fun _ => ⟨hbusy, rfl⟩ }

theorem State.Inv.memWrite (h : s.Inv) (addr : Nat) (data : List Byte) {hazard : Bool} (hbusy : hazard = true → s.seq = .busy) :
    { s with
      hazard := s.hazard || hazard
      torn := s.torn || hazard
      mem := s.mem.writeBytes addr data : State }.Inv :=
  { h with
    memWf := Memory.wf_writeBytes h.memWf addr data
    tornBusy := fun htorn => by
      rcases Bool.or_eq_true _ _ |>.mp htorn with ht | hz
      · exact ⟨(h.tornBusy ht).1, by simp [(h.tornBusy ht).2]⟩
      · exact ⟨hbusy hz, by simp [hz]⟩ }

/-! ### The step -/

theorem TurnEffect.inv {turn : Turn} (h : s.Inv) (heff : TurnEffect s turn t) : t.Inv := by
  induction heff with
  | engineIdle | writeIgnored | waitEnds => exact h
  | illegal => exact completeError_inv .illegal h.memWf
  | exec op vis compute => exact h.execCommand op vis compute
  | read | readRefused | writeRefused | setIrq | waitAgain => exact { h with }
  | readHazard _ _ hbusy => exact { h.markHazard hbusy with }
  | memWrite addr data _ hbusy => exact h.memWrite addr.toNat data hbusy
  | writeParam _ _ r v => exact h.writeParam r v
  | clear _ _ done err degen => exact h.clearFlags done err degen
  | softReset | reset => exact resetBlock_inv h.memWf
  | start => exact State.Inv.startCommand { h with }
  | pollEnds _ _ _ _ ih => exact ih
  | pollAgain _ _ _ _ ih => exact { ih with }

theorem State.Inv.afterTurn (h : s.Inv) : (afterTurn s).Inv := { h with }

/-- Settles O46, by the effects of a turn. -/
theorem stepKeepsInvariant : Obligations.StepKeepsInvariant :=
  fun _ _ h hstep => (step_effect hstep).inv h.afterTurn

end Sys2Proof.Machine
end

section
/-! SUPPORT. The sequencer (10_state.md R32), and what the registers read after reset (R54). -/

namespace Sys2Proof.Machine

open Sys2Proof.Reference

variable {s t : State}

theorem statusWord_busy (s : State) : (statusWord s).getLsbD 0 = true ↔ s.seq = .busy := by
  rw [statusWord, BitVec.getLsbD_append]
  simp [State.busy]

theorem execCommand_seq (op : Op) (vis : Bool) (compute : Config → Params → Memory → Result) (s : State) :
    (execCommand op vis compute s).seq = .idle := by
  rcases execCommand_cases op vis compute s with
    ⟨hidle, heq⟩ | ⟨e, -, -, heq⟩ | ⟨-, -, -, heq⟩ | ⟨-, -, -, -, heq⟩ | ⟨-, heq⟩ <;> rw [heq]
  · exact hidle
  all_goals rfl

theorem TurnEffect.seq_of_read {addr : Word} {len : Nat} (h : TurnEffect s (.read addr len) t) : t.seq = s.seq := by
  cases h <;> rfl

/-- The turn writes v to CTRL. -/
def Turn.IsCtrlWrite (turn : Turn) (s : State) (v : Word) : Prop :=
  ∃ addr, turn = .write addr (wordBytes v) ∧ addr.toNat = s.cfg.engineBase.toNat + 0x010

theorem writesCtrl_of_nextTurn {v : Word} (h : (nextTurn s).IsCtrlWrite (afterTurn s) v) : writesCtrl s v := by
  obtain ⟨addr, hturn, haddr⟩ := h
  exact ⟨addr, head?_agenda_of_nextTurn hturn nofun, haddr⟩

/-- What a turn can do to the sequencer (10_state.md R32). -/
theorem TurnEffect.seq_cases {turn : Turn} (h : TurnEffect s turn t) :
    t.seq = s.seq ∨
    (t.seq = .busy ∧ ∃ v, turn.IsCtrlWrite s v ∧ v.getLsbD 0 = true ∧ v.getLsbD 1 = false) ∨
    (t.seq = .idle ∧ (turn = .engine ∨ turn = .reset ∨ ∃ v, turn.IsCtrlWrite s v ∧ v.getLsbD 1 = true)) := by
  cases h with
  | engineIdle | read | readRefused | readHazard | memWrite | writeRefused | writeIgnored | clear | setIrq | waitEnds
    | waitAgain => exact .inl rfl
  | writeParam _ _ r v => exact .inl (writeParam_seq s r v)
  | pollEnds _ _ _ hread | pollAgain _ _ _ hread => exact .inl hread.seq_of_read
  | start addr v haddr hsrst hstart => exact .inr (.inl ⟨startCommand_seq _, v, ⟨addr, rfl, haddr⟩, hstart, hsrst⟩)
  | illegal => exact .inr (.inr ⟨rfl, .inl rfl⟩)
  | exec op vis compute => exact .inr (.inr ⟨execCommand_seq op vis compute s, .inl rfl⟩)
  | reset => exact .inr (.inr ⟨rfl, .inr (.inl rfl)⟩)
  | softReset addr v haddr hsrst => exact .inr (.inr ⟨rfl, .inr (.inr ⟨v, ⟨addr, rfl, haddr⟩, hsrst⟩)⟩)

/-- Settles O49, by what a turn can do to the sequencer. -/
theorem sequencerChanges : Obligations.SequencerChanges := by
  intro s t hstep
  have hcases : t.seq = s.seq ∨ _ := (step_effect hstep).seq_cases
  refine ⟨statusWord_busy s, fun hidle hbusy => ?_, fun hbusy hidle => ?_⟩
  · rcases hcases with hsame | ⟨-, v, hwrite, hstart, hsrst⟩ | ⟨hidle', -⟩
    · simp [hsame, hidle] at hbusy
    · exact ⟨v, writesCtrl_of_nextTurn hwrite, hstart, hsrst⟩
    · simp [hidle'] at hbusy
  · rcases hcases with hsame | ⟨hbusy', -⟩ | ⟨-, hengine | hreset | ⟨v, hwrite, hsrst⟩⟩
    · simp [hsame, hbusy] at hidle
    · simp [hbusy'] at hidle
    · exact .inl (engineNext_of_nextTurn hengine)
    · exact .inr (.inl (head?_agenda_of_nextTurn hreset nofun))
    · exact .inr (.inr ⟨v, writesCtrl_of_nextTurn hwrite, hsrst⟩)

/-- The registers from CTRL to OUT_H (10_state.md R36). -/
theorem readOffset_reset_eq_zero : ∀ off ≤ 0x048, 0x010 ≤ off → off % 4 = 0 → readOffset State.reset off = 0 := by decide

/-- Settles O14: the constants and the default parameters, then the registers that hold 0. -/
theorem resetValues : Obligations.ResetValues :=
  ⟨rfl, rfl, by decide, by decide, fun off hlo hhi halign => readOffset_reset_eq_zero off hhi hlo halign, rfl, rfl⟩

end Sys2Proof.Machine
end

section
/-! SUPPORT. What the engine writes: every computation fits the output ranges of its command, and a turn that is not a host memory write
changes no byte outside them (20_memory.md R84). -/

namespace Sys2Proof.Machine

open Sys2Proof.Reference

variable {s t : State}

/-! ### Results fit their ranges -/

/-- The result has no more words than the ranges its command writes (20_memory.md R61, R67). -/
structure Result.Fits (op : Op) (vis : Bool) (l : Params) (r : Result) : Prop where
  dst : r.dst.length ≤ outWidth op l * outHeight op l
  vis : r.vis.length ≤ visCount vis l

theorem length_normWords (c : List F32) : (normWords c).1.length = c.length := by
  simp only [normWords]
  split <;> simp

/-- The destination of a transform or a mask, with its visual output where VIS = 1, has one word for each pixel. -/
theorem spectralResult_fits {op : Op} {l : Params} {dst : List Word} (vis : Bool) (hside : windowSide op l = 1)
    (hdst : dst.length ≤ l.height.toNat * l.width.toNat) : (spectralResult vis dst).Fits op vis l := by
  have hdst' : dst.length ≤ outWidth op l * outHeight op l := by simpa [outWidth, outHeight, border, hside, Nat.mul_comm] using hdst
  cases vis with
  | false => exact ⟨hdst', Nat.le_refl 0⟩
  | true => exact ⟨hdst', by simpa [spectralResult, length_normWords, visCount, Nat.mul_comm] using hdst⟩

theorem length_flatten_fanOut_le {α : Type} (p r : Nat) {n : Nat} {line : Nat → List α} (hline : ∀ y, (line y).length = n) :
    (fanOut p r line).flatten.length ≤ r * n := by
  have hlines : ∀ k ∈ (fanOut p r line).map List.length, k ≤ n := by
    simp +contextual [fanOut, hline, eq_comm]
  calc (fanOut p r line).flatten.length
      = ((fanOut p r line).map List.length).sum := List.length_flatten
    _ ≤ (fanOut p r line).length * n := by simpa using List.sum_le_card_nsmul _ n hlines
    _ ≤ r * n := Nat.mul_le_mul_right n (length_fanOut_le p r line)

theorem grid_fits {op : Op} {l : Params} (f : Nat → Nat → Word) (degen : Bool) :
    Result.Fits op false l ⟨grid (outWidth op l) (outHeight op l) f, [], degen⟩ :=
  ⟨by simp [Nat.mul_comm], Nat.le_refl 0⟩

theorem dctResult_fits (vis : Bool) (c : Config) (l : Params) (m : Memory) : (dctResult vis c l m).Fits .dct vis l :=
  spectralResult_fits vis rfl (length_flatten_fanOut_le _ _ fun _ => by simp)

theorem idctResult_fits (c : Config) (l : Params) (m : Memory) : (idctResult c l m).Fits .idct false l :=
  spectralResult_fits false rfl (by
    rw [List.length_map]
    exact length_flatten_fanOut_le _ _ fun _ => by simp)

theorem lowpassResult_fits (vis : Bool) (c : Config) (l : Params) (m : Memory) : (lowpassResult vis c l m).Fits .lowpass vis l :=
  spectralResult_fits vis rfl (length_grid ..).le

theorem highpassResult_fits (vis : Bool) (c : Config) (l : Params) (m : Memory) : (highpassResult vis c l m).Fits .highpass vis l :=
  spectralResult_fits vis rfl (length_grid ..).le

theorem normalizeResult_fits (c : Config) (l : Params) (m : Memory) : (normalizeResult c l m).Fits .normalize false l :=
  ⟨by simp [normalizeResult, length_normWords, coefficients, outWidth, outHeight, border, windowSide], Nat.le_refl 0⟩

/-- Every command is EXEC of its operation with a computation that fits its ranges. -/
theorem exec_command_fits {i : Instr} {op : Op} {vis : Bool} (h : commandOp i = some (op, vis)) (s : State) :
    ∃ compute, exec i s = .next (execCommand op vis compute s) ∧ ∀ c l m, (compute c l m).Fits op vis l := by
  cases i <;> cases h
  case conv | median | min | max | midpoint => exact ⟨_, rfl, fun _ _ _ => grid_fits _ _⟩
  case dct => exact ⟨_, rfl, dctResult_fits false⟩
  case dctVis => exact ⟨_, rfl, dctResult_fits true⟩
  case idct => exact ⟨_, rfl, idctResult_fits⟩
  case lowpass => exact ⟨_, rfl, lowpassResult_fits false⟩
  case lowpassVis => exact ⟨_, rfl, lowpassResult_fits true⟩
  case highpass => exact ⟨_, rfl, highpassResult_fits false⟩
  case highpassVis => exact ⟨_, rfl, highpassResult_fits true⟩
  case normalize => exact ⟨_, rfl, normalizeResult_fits⟩

/-! ### Bytes outside the outputs -/

/-- No byte of the running command's outputs is at the address; with no legal command running, every address. -/
def OutsideRunning (s : State) (a : Nat) : Prop :=
  ∀ op vis, s.seq = .busy → latchedCommand s.latch = some (op, vis) → outsideOutputs op vis s.latch a

theorem execCommand_read_of_outside {op : Op} {vis : Bool} {compute : Config → Params → Memory → Result} {a : Nat}
    (hfits : ∀ c l m, (compute c l m).Fits op vis l) (ha : outsideOutputs op vis s.latch a) :
    (execCommand op vis compute s).mem.read a = s.mem.read a := by
  rcases execCommand_cases op vis compute s with ⟨-, heq⟩ | ⟨e, -, -, heq⟩ | ⟨-, -, -, heq⟩ | ⟨-, -, -, -, heq⟩ | ⟨-, heq⟩ <;>
    rw [heq]
  · rfl
  · exact scrambleOutputs_read_of_outside s ha
  · exact scrambleOutputs_read_of_outside s ha
  · obtain ⟨hdst, hvis⟩ := hfits s.cfg s.latch s.mem
    exact (storeResult_completed s hdst hvis).2 a ha

theorem engineTurn_read_of_outside {a : Nat} (h : engineTurn s = .next t) (ha : OutsideRunning s a) :
    t.mem.read a = s.mem.read a := by
  cases hseq : s.seq with
  | idle =>
    simp only [engineTurn, hseq, Host.Outcome.next.injEq] at h
    rw [h]
  | busy =>
    cases hdec : decodeCommand s.latch.cmd with
    | error e =>
      simp only [engineTurn, hseq, hdec, Host.Outcome.next.injEq] at h
      rw [← h, completeError_mem]
    | ok i =>
      obtain ⟨op, vis, hop⟩ := commandOp_of_decodeCommand hdec
      obtain ⟨compute, hexec, hfits⟩ := exec_command_fits hop s
      simp only [engineTurn, hseq, hdec, hexec, Host.Outcome.next.injEq] at h
      rw [← h]
      exact execCommand_read_of_outside hfits (ha op vis hseq (by simp [latchedCommand, hdec, hop]))

theorem abortCommand_read_of_outside {a : Nat} (ha : OutsideRunning s a) : (abortCommand s).mem.read a = s.mem.read a := by
  rcases abortCommand_cases s with ⟨heq, -⟩ | ⟨op, vis, hbusy, hcmd, heq⟩ <;> rw [heq]
  exact scrambleOutputs_read_of_outside s (ha op vis hbusy hcmd)

/-! ### The step -/

theorem hitsWindow_iff_inWindow {addr len : Nat} : hitsWindow s.cfg addr len = true ↔ inWindow s addr len := by
  simp [hitsWindow, inWindow, and_assoc]

theorem TurnEffect.mem_of_read {addr : Word} {len : Nat} (h : TurnEffect s (.read addr len) t) : t.mem = s.mem := by
  cases h <;> rfl

/-- What a turn other than the engine's can do to memory: nothing, the abort of a reset, or a host's write outside the window. -/
theorem TurnEffect.mem_cases {turn : Turn} (h : TurnEffect s turn t) (hne : turn ≠ .engine) :
    t.mem = s.mem ∨ t.mem = (abortCommand s).mem ∨
      ∃ addr data, turn = .write addr data ∧ hitsWindow s.cfg addr.toNat data.length = false := by
  cases h with
  | engineIdle | illegal | exec => exact absurd rfl hne
  | read | readRefused | readHazard | writeRefused | writeIgnored | clear | setIrq | waitEnds | waitAgain => exact .inl rfl
  | writeParam _ _ r v => exact .inl (writeParam_mem s r v)
  | start => exact .inl (startCommand_mem _)
  | pollEnds _ _ _ hread | pollAgain _ _ _ hread => exact .inl hread.mem_of_read
  | softReset | reset => exact .inr (.inl rfl)
  | memWrite addr data _ _ hwin => exact .inr (.inr ⟨addr, data, rfl, hwin⟩)

/-- Settles O48: the engine's turn by the sizes of its results, every other turn by what it can do to memory. That an illegal word has no
ranges and an oversized border an empty destination is logs 11 and 12. -/
theorem engineWritesOnlyOutputs : Obligations.EngineWritesOnlyOutputs := by
  intro s t hstep hwrite a ha
  have hout : OutsideRunning (afterTurn s) a := ha
  by_cases hturn : nextTurn s = .engine
  · rw [step_eq_takeTurn, hturn] at hstep
    exact engineTurn_read_of_outside (s := afterTurn s) hstep hout
  · rcases (step_effect hstep).mem_cases hturn with hmem | hmem | ⟨addr, data, hdata, hwin⟩
    · rw [hmem]; rfl
    · rw [hmem]
      exact abortCommand_read_of_outside hout
    · have hhits := hitsWindow_iff_inWindow.mpr (hwrite addr data (head?_agenda_of_nextTurn hdata nofun))
      exact absurd (hhits.symm.trans hwin) nofun

end Sys2Proof.Machine
end

section
/-! SUPPORT. The words of the output ranges after a valid command's outputs are written (20_memory.md R61, R71, R83). -/

namespace Sys2Proof.Machine

open Sys2Proof.Reference

/-! ### Output words -/

theorem AddrRange.overlaps_eq_false {r q : AddrRange} : AddrRange.overlaps r q = false ↔ q.hi ≤ r.lo ∨ r.hi ≤ q.lo := by
  simp [AddrRange.overlaps, or_iff_not_imp_left]

section

variable {c : Config} {op : Op} {vis : Bool} {l : Params} {m : Memory} {dst out : List Word}
  (hvalid : validateOperands c op vis l = none) (hmem : m.wf = true)
  (hdst : dst.length ≤ outWidth op l * outHeight op l) (hout : out.length ≤ visCount vis l)

include hvalid

/-- The visual words of a valid command lie wholly before or wholly after its destination words (20_memory.md R71). -/
theorem outputs_disjoint_of_valid (hvis : vis = true) :
    l.dstAddr.toNat + 4 * (outWidth op l * outHeight op l) ≤ l.visAddr.toNat ∨
      l.visAddr.toNat + 4 * (l.width.toNat * l.height.toNat) ≤ l.dstAddr.toNat := by
  obtain ⟨-, -, hdisjoint⟩ := ranges_of_valid hvalid
  exact AddrRange.overlaps_eq_false.mp (hdisjoint hvis).2

include hmem hdst hout

/-- Element i of the destination is the word written there: no visual word lies over it. -/
theorem readWord_dst_of_valid {i : Nat} (hi : i < dst.length) :
    ((m.writeWords l.dstAddr.toNat dst).writeWords l.visAddr.toNat out).readWord (l.dstAddr.toNat + 4 * i) = dst[i] := by
  have hend := dst_bound_of_valid hvalid
  have hword : (m.writeWords l.dstAddr.toNat dst).readWord (l.dstAddr.toNat + 4 * i) = dst[i] :=
    Memory.readWord_writeWords hmem hi (by omega)
  cases hvis : vis with
  | false =>
    have hnil : out = [] := List.eq_nil_of_length_eq_zero (by simpa [visCount, hvis] using hout)
    rw [hnil, Memory.writeWords_nil, hword]
  | true =>
    have hdisjoint := outputs_disjoint_of_valid hvalid hvis
    simp only [visCount, hvis, if_true] at hout
    rw [Memory.readWord_writeWords_of_disjoint _ _ (by omega), hword]

omit hdst

/-- Element i of the visual buffer is the word written there. -/
theorem readWord_vis_of_valid {i : Nat} (hvis : vis = true) (hi : i < out.length) :
    ((m.writeWords l.dstAddr.toNat dst).writeWords l.visAddr.toNat out).readWord (l.visAddr.toNat + 4 * i) = out[i] := by
  subst hvis
  have hend := vis_bound_of_valid hvalid
  simp only [visCount, if_true] at hout
  exact Memory.readWord_writeWords (Memory.wf_writeWords hmem _ _) hi (by omega)

end

/-! ### Free outputs -/

theorem scrambleOutputs_outputsFree {op : Op} {vis : Bool} {s : State} (hmem : s.mem.wf = true)
    (hvalid : validateOperands s.cfg op vis s.latch = none) : OutputsFree op vis s (scrambleOutputs op vis s) := by
  rw [OutputsFree, scrambleOutputs_mem]
  refine ⟨fun i hi => ?_, fun hvis i hi => ?_⟩
  · rw [readWord_dst_of_valid hvalid hmem (by simp) (by simp) (by simpa using hi), getElem_freeWords]
  · rw [readWord_vis_of_valid hvalid hmem (by simp) hvis (by simpa [visCount, hvis] using hi), getElem_freeWords]

/-- A valid command one of whose accesses is denied scrambles its outputs and completes with E_BUS (60_exceptions.md R197). -/
theorem execCommand_of_not_admitted {op : Op} {vis : Bool} {s : State} (hbusy : s.seq = .busy)
    (hvalid : validateOperands s.cfg op vis s.latch = none) (hdenied : allAdmitted s.cfg op vis s.latch = false)
    (compute : Config → Params → Memory → Result) :
    execCommand op vis compute s = completeError .bus (scrambleOutputs op vis s) := by
  simp [execCommand, hbusy, hvalid, hdenied]

/-- Settles O21: only the outputs are scrambled, each word with a draw of its own. -/
theorem busErrorCompletes : Obligations.BusErrorCompletes := by
  intro s i op vis hbusy hmem hop hvalid hdenied
  obtain ⟨compute, hexec⟩ := exec_eq_execCommand hop s
  rw [execCommand_of_not_admitted hbusy hvalid hdenied] at hexec
  exact ⟨_, hexec, rfl, scrambleOutputs_outputsFree hmem hvalid, fun _ ha => scrambleOutputs_read_of_outside s ha⟩

end Sys2Proof.Machine
end

section
/-! SUPPORT. The words a command accesses, as the aligned words of its ranges (20_memory.md R61, R67). -/

namespace Sys2Proof.Machine

open Sys2Proof.Reference

/-! ### Elements -/

theorem AddrRange.contains_eq_true {r : AddrRange} {a : Nat} : AddrRange.contains r a = true ↔ r.lo ≤ a ∧ a < r.hi := by
  simp [AddrRange.contains]

/-- The elements from an aligned base are the aligned addresses of their range (20_memory.md R61). -/
theorem mem_elementAddrs_iff {base n a : Nat} (hbase : base % 4 = 0) :
    a ∈ elementAddrs base n ↔ a % 4 = 0 ∧ AddrRange.contains (elementRange base n) a = true := by
  simp only [elementAddrs, List.mem_map, List.mem_range, AddrRange.contains_eq_true, elementRange]
  constructor
  · rintro ⟨i, hi, rfl⟩
    omega
  · rintro ⟨ha, hlo, hhi⟩
    exact ⟨(a - base) / 4, by omega, by omega⟩

theorem mem_grid_iff {α : Type} {cols rows : Nat} {f : Nat → Nat → α} {z : α} :
    z ∈ grid cols rows f ↔ ∃ y < rows, ∃ x < cols, f x y = z := by
  simp [grid]

/-- A whole grid of elements in row-major order is the run of them. -/
theorem mem_grid_elements_iff {base cols rows a : Nat} :
    a ∈ grid cols rows (fun x y => base + 4 * (y * cols + x)) ↔ a ∈ elementAddrs base (cols * rows) := by
  simp only [mem_grid_iff, elementAddrs, List.mem_map, List.mem_range]
  constructor
  · rintro ⟨y, hy, x, hx, rfl⟩
    exact ⟨y * cols + x, Nat.mul_comm cols rows ▸ grid_index_lt hx hy, rfl⟩
  · rintro ⟨i, hi, rfl⟩
    have hcols : 0 < cols := Nat.pos_of_mul_pos_right (Nat.zero_lt_of_lt hi)
    exact ⟨i / cols, Nat.div_lt_of_lt_mul hi, i % cols, Nat.mod_lt i hcols, by rw [Nat.div_add_mod']⟩

/-! ### A valid command -/

section

variable {c : Config} {op : Op} {vis : Bool} {l : Params} (hvalid : validateOperands c op vis l = none)

include hvalid

/-- The image of a valid command has pixels, and SRC_LEN counts them (40_command_control.md R118). -/
theorem image_of_valid : 0 < l.width.toNat ∧ 0 < l.height.toNat ∧ l.srcLen.toNat = l.width.toNat * l.height.toNat := by
  obtain ⟨hdim, -, -, -⟩ := validateOperands_eq_none.mp hvalid
  simp only [dimBad, Bool.or_eq_false_iff, beq_eq_false_iff_ne, bne_eq_false_iff_eq] at hdim
  obtain ⟨⟨⟨⟨hw, hh⟩, -⟩, -⟩, hlen⟩ := hdim
  exact ⟨Nat.pos_of_ne_zero hw, Nat.pos_of_ne_zero hh, hlen⟩

/-- The window of a valid command has a side and fits into the image (40_command_control.md R119). -/
theorem window_of_valid : 0 < windowSide op l ∧ 2 * border op l < l.width.toNat ∧ 2 * border op l < l.height.toNat := by
  obtain ⟨-, hkernel, -, -⟩ := validateOperands_eq_none.mp hvalid
  obtain ⟨hw, hh, -⟩ := image_of_valid hvalid
  cases op with
  | conv =>
    simp only [kernelBad, emptyRegion, Bool.or_eq_false_iff, beq_eq_false_iff_ne, bne_eq_false_iff_eq,
      decide_eq_false_iff_not, not_le] at hkernel
    obtain ⟨⟨⟨hlen, hsquare⟩, -⟩, hregion⟩ := hkernel
    refine ⟨Nat.pos_of_ne_zero fun hside => hlen ?_, hregion⟩
    simpa [show isqrt l.klen.toNat = 0 from hside] using hsquare.symm
  | median | min | max | midpoint =>
    simp only [kernelBad, emptyRegion, Bool.or_eq_false_iff, decide_eq_false_iff_not, not_le] at hkernel
    exact ⟨Nat.succ_pos _, hkernel.2⟩
  | dct | idct | lowpass | highpass | normalize => exact ⟨Nat.one_pos, by simpa [border, windowSide] using ⟨hw, hh⟩⟩

/-- Every range a valid command uses begins at an aligned address (40_command_control.md R120). -/
theorem aligned_of_valid : l.srcAddr.toNat % 4 = 0 ∧ l.dstAddr.toNat % 4 = 0 ∧ (op = .conv → l.kerAddr.toNat % 4 = 0) ∧
    (vis = true → l.visAddr.toNat % 4 = 0) := by
  obtain ⟨-, -, halign, -⟩ := validateOperands_eq_none.mp hvalid
  simp only [alignBad, Bool.or_eq_false_iff, Bool.and_eq_false_iff, bne_eq_false_iff_eq, beq_eq_false_iff_ne] at halign
  obtain ⟨⟨⟨hsrc, hdst⟩, hker⟩, hvis⟩ := halign
  exact ⟨hsrc, hdst, fun h => hker.resolve_left (absurd h), fun h => hvis.resolve_left (by simp [h])⟩

theorem mem_outputWrites_iff {a : Nat} :
    a ∈ outputWrites op vis l ↔ a % 4 = 0 ∧ ∃ r ∈ outputRanges op vis l, AddrRange.contains r a = true := by
  obtain ⟨-, hdst, -, hvis⟩ := aligned_of_valid hvalid
  cases vis with
  | false => simp [outputWrites, outputRanges, mem_elementAddrs_iff hdst, dstRange]
  | true =>
    simp [outputWrites, outputRanges, mem_elementAddrs_iff hdst, mem_elementAddrs_iff (hvis rfl), dstRange, visRange, and_or_left]

theorem mem_kernelReads_iff {a : Nat} :
    a ∈ kernelReads op l ↔ a % 4 = 0 ∧ op = .conv ∧ AddrRange.contains (kernelRange l) a = true := by
  obtain ⟨-, -, hker, -⟩ := aligned_of_valid hvalid
  cases op with
  | conv => simp [kernelReads, mem_elementAddrs_iff (hker rfl), kernelRange]
  | median | min | max | midpoint | dct | idct | lowpass | highpass | normalize => simp [kernelReads]

theorem mem_sourceElements_iff {a : Nat} :
    a ∈ grid l.width.toNat l.height.toNat (fun x y => l.srcAddr.toNat + 4 * (y * l.width.toNat + x)) ↔
      a % 4 = 0 ∧ AddrRange.contains (sourceRange l) a = true := by
  obtain ⟨hsrc, -⟩ := aligned_of_valid hvalid
  obtain ⟨-, -, hlen⟩ := image_of_valid hvalid
  rw [mem_grid_elements_iff, ← hlen, mem_elementAddrs_iff hsrc, sourceRange]

/-- The windows reach every column and row but, where the side is even, the last ones (41_fir.md R137). -/
theorem readExtent_of_valid :
    outWidth op l + windowSide op l - 1 = l.width.toNat - (1 - windowSide op l % 2) ∧
      outHeight op l + windowSide op l - 1 = l.height.toNat - (1 - windowSide op l % 2) := by
  obtain ⟨hside, hw, hh⟩ := window_of_valid hvalid
  simp only [outWidth, outHeight, border] at hw hh ⊢
  omega

/-- A valid command reads only words of its source. -/
theorem contains_source_of_mem_sourceReads {a : Nat} (ha : a ∈ sourceReads op l) :
    a % 4 = 0 ∧ AddrRange.contains (sourceRange l) a = true := by
  obtain ⟨hcols, hrows⟩ := readExtent_of_valid hvalid
  obtain ⟨y, hy, x, hx, rfl⟩ := mem_grid_iff.mp ha
  exact (mem_sourceElements_iff hvalid).mp (mem_grid_iff.mpr ⟨y, by omega, x, by omega, rfl⟩)

/-- With an odd side the windows of a valid command read every word of the source. -/
theorem mem_sourceReads_of_odd {a : Nat} (hodd : windowSide op l % 2 = 1) (ha : a % 4 = 0)
    (hcontains : AddrRange.contains (sourceRange l) a = true) : a ∈ sourceReads op l := by
  obtain ⟨hcols, hrows⟩ := readExtent_of_valid hvalid
  rw [hodd, Nat.sub_self, Nat.sub_zero] at hcols hrows
  rw [sourceReads, hcols, hrows]
  exact (mem_sourceElements_iff hvalid).mpr ⟨ha, hcontains⟩

end

/-! ### Admission -/

/-- A command is admitted exactly when memory admits every word it accesses (20_memory.md R83). -/
theorem allAdmitted_iff {c : Config} {op : Op} {vis : Bool} {l : Params} :
    allAdmitted c op vis l = true ↔
      ∀ a, a ∈ sourceReads op l ∨ a ∈ kernelReads op l ∨ a ∈ outputWrites op vis l → admits c a = true := by
  simp only [allAdmitted, Bool.and_eq_true, List.all_eq_true, or_imp, forall_and, and_assoc]

theorem sourceRange_mem_inputRanges (op : Op) (l : Params) : sourceRange l ∈ inputRanges op l := by
  cases op <;> exact List.mem_cons_self

/-- Settles O22: the accesses are aligned words of the ranges, and with an odd side all of them. -/
theorem admissionCoversRanges : Obligations.AdmissionCoversRanges := by
  intro c op vis l hvalid
  refine ⟨fun hadmits => allAdmitted_iff.mpr fun a haccess => ?_, fun a ha hdenied hrange => Bool.eq_false_iff.mpr fun hall => ?_⟩
  · rcases haccess with hsrc | hker | hout
    · obtain ⟨ha, hcontains⟩ := contains_source_of_mem_sourceReads hvalid hsrc
      exact hadmits a ha ⟨sourceRange l, List.mem_append_left _ (sourceRange_mem_inputRanges op l), hcontains⟩
    · obtain ⟨ha, rfl, hcontains⟩ := (mem_kernelReads_iff hvalid).mp hker
      exact hadmits a ha ⟨kernelRange l, by simp [inputRanges], hcontains⟩
    · obtain ⟨ha, r, hr, hcontains⟩ := (mem_outputWrites_iff hvalid).mp hout
      exact hadmits a ha ⟨r, List.mem_append_right _ hr, hcontains⟩
  · have haccess : a ∈ sourceReads op l ∨ a ∈ kernelReads op l ∨ a ∈ outputWrites op vis l := by
      rcases hrange with hout | hker | ⟨hodd, hsrc⟩
      · exact .inr (.inr ((mem_outputWrites_iff hvalid).mpr ⟨ha, hout⟩))
      · exact .inr (.inl ((mem_kernelReads_iff hvalid).mpr ⟨ha, hker⟩))
      · exact .inl (mem_sourceReads_of_odd hvalid hodd ha hsrc)
    exact absurd ((allAdmitted_iff.mp hall a haccess).symm.trans hdenied) nofun

end Sys2Proof.Machine
end

section
/-! SUPPORT. Every turn answers a next state, or is a host access past the address space (20_memory.md R60). -/

namespace Sys2Proof.Machine

open Sys2Proof.Reference

/-- The turn is a host access whose bytes run past address 2^32-1. -/
def Turn.PastAddressSpace : Turn → Prop
  | .read addr len => 2 ^ 32 < addr.toNat + len
  | .write addr data => 2 ^ 32 < addr.toNat + data.length
  | .poll addr _ _ => 2 ^ 32 < addr.toNat + 4
  | .engine | .waitIrq | .reset => False

theorem exec_answers (i : Instr) (s : State) : ∃ t, exec i s = .next t := by
  cases i <;> exact ⟨_, rfl⟩

theorem engineTurn_answers (s : State) : ∃ t, engineTurn s = .next t := by
  unfold engineTurn
  split
  · exact ⟨_, rfl⟩
  · split
    · exact exec_answers _ s
    · exact ⟨_, rfl⟩

theorem writeOffset_answers (off : Nat) (v : Word) (s : State) : ∃ t, writeOffset off v s = .next t := by
  rcases writeOffset_cases off v s with ⟨-, heq⟩ | heq | ⟨r, heq⟩ | heq <;> rw [heq]
  · exact exec_answers _ s
  · exact exec_answers _ s
  · exact ⟨_, rfl⟩
  · exact ⟨_, rfl⟩

theorem hostRead_answers_or_faults (addr : Word) (len : Nat) (s : State) :
    (∃ t, hostRead addr len s = .next t) ∨ (hostRead addr len s = .fault .beyondAddressSpace ∧ 2 ^ 32 < addr.toNat + len) := by
  unfold hostRead
  split
  · split <;> exact .inl ⟨_, rfl⟩
  · rcases hostMemRead_cases addr.toNat len s with ⟨hpast, heq⟩ | ⟨-, -, heq⟩ | ⟨-, -, heq⟩ <;> rw [heq]
    · exact .inr ⟨rfl, hpast⟩
    · exact .inl ⟨_, rfl⟩
    · exact .inl ⟨_, rfl⟩

theorem hostWrite_answers_or_faults (addr : Word) (data : List Byte) (s : State) :
    (∃ t, hostWrite addr data s = .next t) ∨
      (hostWrite addr data s = .fault .beyondAddressSpace ∧ 2 ^ 32 < addr.toNat + data.length) := by
  unfold hostWrite
  split
  · split
    · exact .inl (writeOffset_answers _ _ s)
    · exact .inl ⟨_, rfl⟩
  · rcases hostMemWrite_cases addr.toNat data s with ⟨hpast, heq⟩ | ⟨-, hazard, -, heq⟩ <;> rw [heq]
    · exact .inr ⟨rfl, hpast⟩
    · exact .inl ⟨_, rfl⟩

/-- A turn is never refused, and faults only on an access past the address space. -/
theorem takeTurn_answers_or_faults (turn : Turn) (s : State) :
    (∃ t, takeTurn turn s = .next t) ∨ (takeTurn turn s = .fault .beyondAddressSpace ∧ turn.PastAddressSpace) := by
  cases turn with
  | engine => exact .inl (engineTurn_answers s)
  | read addr len => exact hostRead_answers_or_faults addr len s
  | write addr data => exact hostWrite_answers_or_faults addr data s
  | poll addr mask value =>
    rcases hostRead_answers_or_faults addr 4 s with ⟨t, hread⟩ | ⟨hread, hpast⟩
    · exact .inl ⟨_, by rw [takeTurn, pollTurn, hread]⟩
    · exact .inr ⟨by rw [takeTurn, pollTurn, hread], hpast⟩
  | waitIrq | reset => exact .inl ⟨_, rfl⟩

/-- Settles O51, by the turn the step takes. That every other host access completes is log 20. -/
theorem onlyHostAccessFaults : Obligations.OnlyHostAccessFaults := by
  intro s
  rw [step_eq_takeTurn]
  refine (takeTurn_answers_or_faults (nextTurn s) (afterTurn s)).imp id fun ⟨hfault, hpast⟩ => ⟨hfault, ?_⟩
  cases hturn : nextTurn s <;> rw [hturn] at hpast
  case engine | waitIrq | reset => exact hpast.elim
  case write addr data => exact .inl ⟨addr, data, head?_agenda_of_nextTurn hturn nofun, hpast⟩
  case read addr len => exact .inr (.inl ⟨addr, len, head?_agenda_of_nextTurn hturn nofun, hpast⟩)
  case poll addr mask value => exact .inr (.inr ⟨addr, mask, value, head?_agenda_of_nextTurn hturn nofun, hpast⟩)

end Sys2Proof.Machine
end

section
/-! The statements about the encoding (30_encoding.md): the command words and their decoder (R88 to R94, R99), and the window accesses
that are no transaction (R85, R86). -/

namespace Sys2Proof.Machine

open Sys2Proof.Reference

/-! ### The opcode map -/

/-- Where the opcode map is defined: OP in 1..10, and VIS only with the three operations that have a visual output (30_encoding.md R90). -/
theorem exists_commandOf_iff {op : Nat} {vis : Bool} :
    (∃ i, commandOf op vis = some i) ↔ 1 ≤ op ∧ op ≤ 0xA ∧ (vis = false ∨ op = 6 ∨ op = 8 ∨ op = 9) := by
  constructor
  · rintro ⟨i, h⟩
    unfold commandOf at h
    split at h <;> cases h <;> decide
  · rintro ⟨hlo, hhi, rfl | rfl | rfl | rfl⟩
    · interval_cases op <;> exact ⟨_, rfl⟩
    all_goals cases vis <;> exact ⟨_, rfl⟩

/-- The word of a command is OP in bits 3:0 and VIS in bit 4 (30_encoding.md R88). -/
theorem encode_of_commandOf {op : Nat} {vis : Bool} {i : Instr} (h : commandOf op vis = some i) :
    encode i = (.cmd, BitVec.ofNat 32 (op + 16 * vis.toNat)) := by
  unfold commandOf at h
  split at h <;> cases h <;> rfl

/-! ### The decoder -/

theorem extractLsb'_high_eq_zero {w : Word} : w.extractLsb' 5 27 = 0 ↔ w.toNat / 32 = 0 := by
  have hlt := w.isLt
  have hzero : (0 : BitVec 27).toNat = 0 := rfl
  rw [BitVec.toNat_eq, BitVec.extractLsb'_toNat, Nat.shiftRight_eq_div_pow, hzero]
  omega

/-- The decoder accepts exactly the words with bits 31:5 zero whose OP and VIS are in the opcode map: its test of OP alone refuses
nothing that the map would accept. -/
theorem decodeCommand_eq_ok_iff {w : Word} {i : Instr} :
    decodeCommand w = .ok i ↔ w.toNat / 32 = 0 ∧ commandOf (w.toNat % 16) (w.getLsbD 4) = some i := by
  have hop : (w.extractLsb' 0 4).toNat = w.toNat % 16 := by simp
  simp only [decodeCommand, hop, ne_eq, extractLsb'_high_eq_zero]
  split_ifs with hrange hhigh
  · refine iff_of_false nofun fun ⟨_, hmap⟩ => ?_
    have := exists_commandOf_iff.mp ⟨i, hmap⟩
    omega
  · cases commandOf (w.toNat % 16) (w.getLsbD 4) <;> simp [hhigh]
  · simp [hhigh]

theorem exists_decodeCommand_iff {w : Word} :
    (∃ i, decodeCommand w = .ok i) ↔
      w.toNat / 32 = 0 ∧ 1 ≤ w.toNat % 16 ∧ w.toNat % 16 ≤ 0xA ∧
        (w.getLsbD 4 = false ∨ w.toNat % 16 = 6 ∨ w.toNat % 16 = 8 ∨ w.toNat % 16 = 9) := by
  simp only [decodeCommand_eq_ok_iff, exists_and_left, exists_commandOf_iff]

/-- A word without bits above VIS is its OP and VIS fields. -/
theorem eq_ofNat_op_vis {w : Word} (h : w.toNat / 32 = 0) :
    w = BitVec.ofNat 32 (w.toNat % 16 + 16 * (w.getLsbD 4).toNat) := by
  have hvis : (w.getLsbD 4).toNat = w.toNat / 16 % 2 := by
    rw [BitVec.getLsbD, Nat.toNat_testBit]
  refine BitVec.eq_of_toNat_eq ?_
  rw [hvis, BitVec.toNat_ofNat]
  omega

/-! ### Decoding an encoding -/

/-- Each encoding is read back, in the register it belongs to (30_encoding.md R94, R95). -/
theorem decode_encode (i : Instr) : decode (encode i).1 (encode i).2 = .ok i := by
  cases i with
  | conv | median | min | max | midpoint | dct | idct | lowpass | highpass | normalize => rfl
  | dctVis | lowpassVis | highpassVis => rfl
  | srst => rfl
  | start irqEn | setIrq irqEn => cases irqEn <;> rfl
  | clear done err degen => cases done <;> cases err <;> cases degen <;> rfl

theorem decodeBytes_wordBytes (t : Target) (w : Word) : decodeBytes t (wordBytes w) = decode t w :=
  congrArg (decode t) (Memory.wordOfBytes_wordBytes w)

/-- A word is accepted as a command exactly when it is that command's encoding (30_encoding.md R90, R99). -/
theorem decodeCommand_eq_ok_iff_encode {w : Word} {i : Instr} : decodeCommand w = .ok i ↔ encode i = (.cmd, w) := by
  constructor
  · intro h
    obtain ⟨hhigh, hmap⟩ := decodeCommand_eq_ok_iff.mp h
    rw [eq_ofNat_op_vis hhigh]
    exact encode_of_commandOf hmap
  · intro h
    simpa only [h, decode] using decode_encode i

/-- Settles O2: each word is the encoding of its mnemonic's command. -/
theorem commandWordsByMnemonic : Obligations.CommandWordsByMnemonic := by
  unfold Obligations.CommandWordsByMnemonic
  simp only [decodeCommand_eq_ok_iff_encode, encode, and_self]

/-- Settles O3, by reading back each encoding and by the fields of an accepted word. -/
theorem decodeEncodeAgree : Obligations.DecodeEncodeAgree :=
  ⟨fun i _ => (decodeBytes_wordBytes _ _).trans (decode_encode i), fun _ _ => decodeCommand_eq_ok_iff_encode.mp⟩

/-! ### The thirteen command words -/

/-- The commands, in the order of their words (30_encoding.md R90). -/
def commands : List Instr :=
  [.conv, .median, .min, .max, .midpoint, .dct, .idct, .lowpass, .highpass, .normalize, .dctVis, .lowpassVis, .highpassVis]

theorem mem_commands_iff {i : Instr} : i ∈ commands ↔ (encode i).1 = .cmd := by
  cases i <;> simp [commands, encode]

/-- The accepted words are the words of the commands. -/
theorem exists_decodeCommand_iff_mem {w : Word} :
    (∃ i, decodeCommand w = .ok i) ↔ w ∈ commands.map fun i => (encode i).2 := by
  simp only [decodeCommand_eq_ok_iff_encode, List.mem_map, mem_commands_iff, Prod.ext_iff]

/-! ### The step on a given turn -/

variable {s : State}

theorem step_of_agenda {turn : Turn} {rest : List Turn} (h : s.agenda = turn :: rest) : step s = takeTurn turn (afterTurn s) := by
  rw [step_eq_takeTurn, nextTurn, h, List.headD_cons]

theorem step_of_engineNext (h : engineNext s) : step s = engineTurn (afterTurn s) := by
  have hturn : nextTurn s = .engine := by
    rcases h with hnil | hhead
    · rw [nextTurn, hnil, List.headD_nil]
    · rw [nextTurn, List.headD_eq_head?_getD, hhead, Option.getD_some]
  rw [step_eq_takeTurn, hturn, takeTurn]

/-- E_ILLEGAL comes before any other check and accesses no memory (30_encoding.md R90, R93). -/
theorem engineTurn_of_illegal (hbusy : s.seq = .busy) (hill : ∀ i, decodeCommand s.latch.cmd ≠ .ok i) :
    engineTurn s = .next (errorState 3 s) := by
  cases hdec : decodeCommand s.latch.cmd with
  | ok i => exact absurd hdec (hill i)
  | error e =>
    rw [engineTurn, hbusy, hdec]
    rfl

/-- Settles O1: the fields of an accepted word, the words of the commands, and the engine's turn on any other word. -/
theorem legalCommandWords : Obligations.LegalCommandWords := by
  refine ⟨fun w => ?_, fun w => exists_decodeCommand_iff_mem, fun s hbusy hnext hill => ?_⟩
  · rw [exists_decodeCommand_iff]
    tauto
  · rw [step_of_engineNext hnext]
    exact engineTurn_of_illegal hbusy hill

/-! ### Window accesses that are no transaction -/

theorem isTransaction_eq_false {addr len : Nat} : isTransaction addr len = false ↔ ¬(len = 4 ∧ addr % 4 = 0) := by
  simp [isTransaction]

theorem hostWrite_of_improper {addr : Word} {data : List Byte} (hwin : hitsWindow s.cfg addr.toNat data.length = true)
    (himp : isTransaction addr.toNat data.length = false) : hostWrite addr data s = .next (markRefused s) := by
  simp only [hostWrite, hwin, himp, if_true]

theorem hostRead_of_improper {addr : Word} {len : Nat} (hwin : hitsWindow s.cfg addr.toNat len = true)
    (himp : isTransaction addr.toNat len = false) : hostRead addr len s = .next (returnFree len (markRefused s)) := by
  simp only [hostRead, hwin, himp, if_true, Bool.false_eq_true, if_false]

/-- Settles O9: such a write sets the mark, and such a read also draws the bytes it returns (log 14); an access that straddles the
window's edge has a byte in it (log 24). -/
theorem improperWindowAccessRefused : Obligations.ImproperWindowAccessRefused := by
  refine ⟨fun s rest addr data hagenda hwin himp => ?_, fun s rest addr len hagenda hwin himp => ?_⟩
  · rw [step_of_agenda hagenda]
    exact hostWrite_of_improper (hitsWindow_iff_inWindow.mpr hwin) (isTransaction_eq_false.mpr himp)
  · rw [step_of_agenda hagenda]
    exact ⟨_, hostRead_of_improper (hitsWindow_iff_inWindow.mpr hwin) (isTransaction_eq_false.mpr himp), rfl⟩

end Sys2Proof.Machine
end

section
/-! The statements about the register window (10_state.md R36 to R49, 40_command_control.md R105, R114, R116), by one rule for a read
transaction and one for a write transaction. -/

namespace Sys2Proof.Machine

open Sys2Proof.Reference

/-! ### Transactions -/

section

variable {s : State} {off : Nat} (hwf : s.cfg.wf = true) (halign : off % 4 = 0) (hoff : off < 0x100)

include hwf

/-- ENGINE_BASE is a multiple of 0x100 (00_scope.md R6). -/
theorem engineBase_aligned_of_wf : s.cfg.engineBase.toNat % 0x100 = 0 := by
  simp only [Config.wf, Bool.and_eq_true, beq_iff_eq] at hwf
  tauto

include hoff

/-- The window does not wrap round the end of the address space. -/
theorem toNat_windowAddr : (windowAddr s off).toNat = s.cfg.engineBase.toNat + off := by
  have hbase := engineBase_aligned_of_wf hwf
  have hlt := s.cfg.engineBase.isLt
  rw [windowAddr, BitVec.toNat_add, BitVec.toNat_ofNat]
  omega

include halign

/-- A 32-bit access of an offset of the window is a transaction (30_encoding.md R85). -/
theorem windowAddr_isTransaction :
    hitsWindow s.cfg (windowAddr s off).toNat 4 = true ∧ isTransaction (windowAddr s off).toNat 4 = true := by
  have hbase := engineBase_aligned_of_wf hwf
  rw [toNat_windowAddr hwf hoff]
  simp only [hitsWindow, isTransaction, Bool.and_eq_true, decide_eq_true_eq, beq_iff_eq, true_and]
  omega

theorem hostRead_windowAddr :
    hostRead (windowAddr s off) 4 s = .next { s with hostData := wordBytes (readOffset s off) } := by
  obtain ⟨hwin, htrans⟩ := windowAddr_isTransaction hwf halign hoff
  rw [hostRead, if_pos hwin, if_pos htrans, toNat_windowAddr hwf hoff, Nat.add_sub_cancel_left]

theorem hostWrite_windowAddr (v : Word) : hostWrite (windowAddr s off) (wordBytes v) s = writeOffset off v s := by
  obtain ⟨hwin, htrans⟩ := windowAddr_isTransaction hwf halign hoff
  rw [toNat_windowAddr hwf hoff] at hwin htrans
  simp only [hostWrite, Memory.length_wordBytes, toNat_windowAddr hwf hoff, hwin, htrans, if_true, Nat.add_sub_cancel_left]
  exact congrArg (writeOffset off · s) (Memory.wordOfBytes_wordBytes v)

/-- A write transaction, as a step. -/
theorem step_of_windowWrite {rest : List Turn} {v : Word} (hagenda : s.agenda = .write (windowAddr s off) (wordBytes v) :: rest) :
    step s = writeOffset off v (afterTurn s) := by
  rw [step_of_agenda hagenda]
  exact hostWrite_windowAddr (s := afterTurn s) hwf halign hoff v

end

/-! ### The register map -/

theorem regAt_paramOffset (r : ParamReg) : regAt (paramOffset r) = some (.param r) := by cases r <;> rfl

theorem paramOffset_aligned (r : ParamReg) : paramOffset r % 4 = 0 ∧ paramOffset r < 0x100 := by cases r <;> decide

/-- The offsets from 0x04C on are reserved (10_state.md R49). -/
theorem regAt_of_reserved {off : Nat} (h : 0x04C ≤ off) : regAt off = none := by
  unfold regAt
  split
  case h_20 => rfl
  all_goals omega

/-! ### Reads -/

/-- A turn taken off the agenda changes no register. -/
theorem readOffset_afterTurn (s : State) (off : Nat) : readOffset (afterTurn s) off = readOffset s off := by
  unfold readOffset
  cases regAt off with
  | none => rfl
  | some r => cases r <;> rfl

theorem readOffset_param (s : State) (r : ParamReg) : readOffset s (paramOffset r) = s.params.get r := by
  rw [readOffset, regAt_paramOffset]
  rfl

theorem readOffset_of_reserved (s : State) {off : Nat} (h : 0x04C ≤ off) : readOffset s off = 0 := by
  rw [readOffset, regAt_of_reserved h]

/-- The fields of CAPS (10_state.md R38). -/
theorem capsWord_fields (c : Config) :
    (capsWord c).extractLsb' 0 8 = c.kmaxSide ∧ (capsWord c).extractLsb' 8 8 = c.dmax ∧
      (capsWord c).extractLsb' 16 8 = c.numWorkers ∧ (capsWord c).extractLsb' 24 8 = 0 := by
  refine ⟨?_, ?_, ?_, ?_⟩ <;>
  · ext i hi
    simp only [capsWord, BitVec.getElem_extractLsb', BitVec.getLsbD_append]
    grind

/-- The fields of CAPS_DIM (10_state.md R38). -/
theorem capsDimWord_fields (c : Config) :
    (capsDimWord c).extractLsb' 0 16 = c.maxW ∧ (capsDimWord c).extractLsb' 16 16 = c.maxH := by
  refine ⟨?_, ?_⟩ <;>
  · ext i hi
    simp only [capsDimWord, BitVec.getElem_extractLsb', BitVec.getLsbD_append]
    grind

theorem ctrlWord_eq (s : State) : ctrlWord s = (BitVec.ofBool s.irqEn).zeroExtend 32 <<< 2 := by
  rw [ctrlWord]
  cases s.irqEn <;> rfl

/-- The fields of STATUS (10_state.md R40), BUSY apart. -/
theorem statusWord_fields (s : State) :
    (statusWord s).getLsbD 1 = s.done ∧ (statusWord s).getLsbD 2 = s.err ∧ (statusWord s).getLsbD 3 = s.degen ∧
      (statusWord s).extractLsb' 4 4 = 0 ∧ (statusWord s).extractLsb' 8 4 = s.errcode ∧
      (statusWord s).extractLsb' 12 20 = 0 := by
  refine ⟨?_, ?_, ?_, ?_, ?_, ?_⟩
  case refine_1 | refine_2 | refine_3 =>
    simp only [statusWord, BitVec.getLsbD_append]
    simp
  all_goals
    ext i hi
    simp only [statusWord, BitVec.getElem_extractLsb', BitVec.getLsbD_append]
    grind

/-- Settles O6: the read transaction, then the register map, register by register. -/
theorem windowReadReturnsRegister : Obligations.WindowReadReturnsRegister := by
  refine ⟨fun s rest off hwf halign hoff hagenda => ?_, fun s => ?_⟩
  · rw [step_of_agenda hagenda, ← readOffset_afterTurn]
    exact hostRead_windowAddr (s := afterTurn s) hwf halign hoff
  · exact ⟨rfl, rfl, capsWord_fields s.cfg, capsDimWord_fields s.cfg, ctrlWord_eq s, ⟨statusWord_busy s, statusWord_fields s⟩,
      readOffset_param s, rfl, rfl, fun off hoff _ => readOffset_of_reserved s hoff⟩

/-! ### Writes -/

theorem writeParam_of_busy (r : ParamReg) (v : Word) {s : State} (h : s.seq = .busy) : writeParam r v s = s := by
  simp [writeParam, h]

theorem writeParam_of_idle (r : ParamReg) (v : Word) {s : State} (h : s.seq = .idle) :
    writeParam r v s = { s with params := s.params.set r v } := by
  simp [writeParam, h]

/-- Settles O7, by the rule for a write transaction and the two states of the sequencer. -/
theorem parameterWrite : Obligations.ParameterWrite := by
  intro s rest r v hwf hagenda
  obtain ⟨halign, hoff⟩ := paramOffset_aligned r
  have hstep : step s = .next (writeParam r v (afterTurn s)) := by
    rw [step_of_windowWrite hwf halign hoff hagenda, writeOffset, regAt_paramOffset]
  refine ⟨fun hbusy => ?_, fun hidle => ⟨{ afterTurn s with params := s.params.set r v }, ?_, rfl, ?_, fun q hq => ?_⟩⟩
  · rw [hstep, writeParam_of_busy (s := afterTurn s) r v hbusy]
  · rw [hstep, writeParam_of_idle (s := afterTurn s) r v hidle]
    rfl
  · exact Params.get_set s.params r v
  · exact Params.get_set_of_ne s.params v hq

/-- Writes below CTRL, to OUT_W and OUT_H and above change nothing (40_command_control.md R116). -/
theorem writeOffset_of_readOnly {off : Nat} (halign : off % 4 = 0)
    (hro : off < 0x010 ∨ off = 0x044 ∨ off = 0x048 ∨ 0x04C ≤ off) (v : Word) (s : State) : writeOffset off v s = .next s := by
  rcases hro with hlow | rfl | rfl | hhigh
  · obtain rfl | rfl | rfl | rfl : off = 0x000 ∨ off = 0x004 ∨ off = 0x008 ∨ off = 0x00C := by omega
    all_goals rfl
  · rfl
  · rfl
  · rw [writeOffset, regAt_of_reserved hhigh]

/-- Settles O8. -/
theorem readOnlyWriteIgnored : Obligations.ReadOnlyWriteIgnored := by
  intro s rest off v hwf halign hro hagenda
  rw [step_of_windowWrite hwf halign (by omega) hagenda]
  exact writeOffset_of_readOnly halign (by omega) v _

end Sys2Proof.Machine
end

section
/-! The statements about the step on a decoded word and about the control actions (40_command_control.md R105 to R110, R115). -/

namespace Sys2Proof.Machine

open Sys2Proof.Reference

/-! ### The step on a decoded word -/

section

variable {s : State}

theorem engineTurn_of_decode {i : Instr} (hbusy : s.seq = .busy) (hdec : decodeCommand s.latch.cmd = .ok i) :
    engineTurn s = exec i s := by
  rw [engineTurn, hbusy, hdec]

/-- The data of a CTRL write is run through `exec` (40_command_control.md R106). -/
theorem step_of_ctrlWrite {rest : List Turn} {v : Word} (hwf : s.cfg.wf = true)
    (hagenda : s.agenda = .write (windowAddr s 0x010) (wordBytes v) :: rest) : step s = exec (decodeCtrl v) (afterTurn s) :=
  step_of_windowWrite hwf rfl (by decide) hagenda

/-- The data of a STATUS write is run through `exec` (40_command_control.md R115). -/
theorem step_of_statusWrite {rest : List Turn} {v : Word} (hwf : s.cfg.wf = true)
    (hagenda : s.agenda = .write (windowAddr s 0x014) (wordBytes v) :: rest) : step s = exec (decodeStatus v) (afterTurn s) :=
  step_of_windowWrite hwf rfl (by decide) hagenda

end

/-- Settles O4. -/
theorem stepRunsDecodedInstruction : Obligations.StepRunsDecodedInstruction := by
  refine ⟨fun s i hbusy hnext hdec => ?_, fun s rest v => step_of_ctrlWrite, fun s rest v => step_of_statusWrite⟩
  rw [step_of_engineNext hnext]
  exact engineTurn_of_decode (s := afterTurn s) hbusy hdec

/-! ### The placed word -/

theorem tableTarget_of_command {w : Word} {i : Instr} (hdec : decodeCommand w = .ok i) : tableTarget 32 w = .cmd := by
  rw [tableTarget, hdec]
  rfl

/-- An eight-bit table word is write data (log 3). -/
theorem tableTarget_eight (w : Word) : tableTarget 8 w = .status ∨ tableTarget 8 w = .ctrl := by
  cases hbit : w.getLsbD 3 <;> simp [tableTarget, hbit]

/-- A bare word is decoded as the register it belongs to says. -/
theorem decode_of_decodeTableWord {nbits w : Nat} {i : Instr} (h : decodeTableWord nbits w = some i) :
    decode (tableTarget nbits (BitVec.ofNat 32 w)) (BitVec.ofNat 32 w) = .ok i := by
  simp only [decodeTableWord, decodeBytes_wordBytes] at h
  split at h
  · cases hdec : decode (tableTarget nbits (BitVec.ofNat 32 w)) (BitVec.ofNat 32 w) <;> rw [hdec] at h <;> cases h
    rfl
  · cases h

/-- A placed command word is latched and BUSY, with the engine's turn next (log 2). -/
theorem step_placeWord_cmd {w : Word} {i : Instr} (s : State) (hdec : decodeCommand w = .ok i) :
    step (placeWord .cmd w s) = exec i (afterTurn (placeWord .cmd w s)) := by
  rw [step_of_engineNext (.inr rfl)]
  exact engineTurn_of_decode rfl hdec

/-- Placed write data is the host's next transaction (log 2). -/
theorem step_placeWord_data {t : Target} {w : Word} {i : Instr} {s : State} (hwf : s.cfg.wf = true)
    (htarget : t = .status ∨ t = .ctrl) (hdec : decode t w = .ok i) : step (placeWord t w s) = exec i s := by
  obtain rfl | rfl := htarget <;> cases hdec
  · exact step_of_statusWrite (s := placeWord .status w s) hwf rfl
  · exact step_of_ctrlWrite (s := placeWord .ctrl w s) hwf rfl

/-- Settles O5: the placing is log 2, and the reading of a bare word log 3. -/
theorem placedWordRunsNext : Obligations.PlacedWordRunsNext := by
  refine ⟨fun s w i _ hdec => ?_, fun s w i hwf _ htable => ?_⟩
  · refine ⟨afterTurn (placeWord .cmd (BitVec.ofNat 32 w) s), rfl, rfl, rfl, rfl, rfl, rfl, ?_⟩
    rw [State.withFetchWord, tableTarget_of_command hdec]
    exact step_placeWord_cmd s hdec
  · exact step_placeWord_data hwf (tableTarget_eight _) (decode_of_decodeTableWord htable)

/-! ### START -/

theorem startCommand_of_idle {s : State} (h : s.seq = .idle) :
    startCommand s =
      { s with done := false, err := false, degen := false, errcode := 0, latch := s.params, seq := .busy, torn := false } := by
  simp [startCommand, h, clearAllFlags]

theorem startCommand_of_busy {s : State} (h : s.seq = .busy) : startCommand s = s := by
  simp [startCommand, h]

/-- IRQ follows from DONE and ERR (60_exceptions.md R203). -/
theorem irq_of_flags_clear {s : State} (hdone : s.done = false) (herr : s.err = false) : irq s = false := by
  simp [irq, hdone, herr]

/-- STATUS is the BUSY bit alone while no flag is set (10_state.md R40). -/
theorem statusWord_of_busy_flags_clear {s : State} (hbusy : s.seq = .busy) (hdone : s.done = false) (herr : s.err = false)
    (hdegen : s.degen = false) (hcode : s.errcode = 0) : statusWord s = 1 := by
  rw [statusWord, State.busy, hbusy, hdone, herr, hdegen, hcode]
  rfl

/-- Settles O10. -/
theorem startAccepted : Obligations.StartAccepted := fun s e hidle =>
  ⟨_, congrArg Host.Outcome.next (startCommand_of_idle (s := { s with irqEn := e }) hidle), rfl,
    statusWord_of_busy_flags_clear rfl rfl rfl rfl rfl, irq_of_flags_clear rfl rfl⟩

/-- Settles O11. -/
theorem startWhileBusyIgnored : Obligations.StartWhileBusyIgnored := fun s e hbusy =>
  congrArg Host.Outcome.next (startCommand_of_busy (s := { s with irqEn := e }) hbusy)

/-! ### CTRL and STATUS writes -/

/-- A reset gives every register its reset value; memory and the count of free words are the abort's (log 6, log 22). -/
theorem resetBlock_eq (s : State) :
    resetBlock s = { resetRegisters s with mem := (abortCommand s).mem, draws := (abortCommand s).draws } := by
  rw [resetBlock, abortCommand_frame]
  rfl

/-- Settles O12, by the branches of `decodeCtrl`. -/
theorem ctrlWriteByBits : Obligations.CtrlWriteByBits := by
  refine ⟨fun s v => ⟨fun hsrst => ?_, fun hsrst hstart => ?_, fun hsrst hstart => ?_⟩, fun s e => rfl⟩
  · rw [decodeCtrl, if_pos hsrst]
    exact ⟨_, rfl, resetBlock_eq s⟩
  · rw [decodeCtrl, hsrst, hstart]
    rfl
  · rw [decodeCtrl, hsrst, hstart]
    rfl

/-- While BUSY there is no flag to clear (10_state.md R40). -/
theorem clearFlags_of_busy {s : State} (h : s.Inv) (hbusy : s.seq = .busy) (done err degen : Bool) :
    clearFlags done err degen s = s := by
  obtain ⟨hdone, herr, hdegen⟩ := h.busyFlags hbusy
  have hcode := h.errcode_eq_zero herr
  cases s
  simp_all [clearFlags]

/-- Settles O13, by the laws of `clearFlags`. -/
theorem statusWriteClears : Obligations.StatusWriteClears := by
  refine ⟨fun s v => ?_, fun s d e g => rfl⟩
  have hclear (flag bit : Bool) : (flag && !bit) = if bit then false else flag := by cases flag <;> cases bit <;> rfl
  refine ⟨clearFlags (v.getLsbD 1) (v.getLsbD 2) (v.getLsbD 3) s, rfl, rfl, hclear _ _, hclear _ _, hclear _ _, rfl,
    fun hinv hbusy => clearFlags_of_busy hinv hbusy _ _ _, fun hdone herr => irq_of_flags_clear ?_ ?_⟩
  · rw [clearFlags_done, hdone, Bool.not_true, Bool.and_false]
  · rw [clearFlags_err, herr, Bool.not_true, Bool.and_false]

end Sys2Proof.Machine
end

section
/-! The statements about validation (40_command_control.md R113, R117 to R123): each check of the model is the condition of the pseudocode
for the latched OP and VIS fields. -/

namespace Sys2Proof.Machine

open Sys2Proof.Reference

/-! ### The fields of a latched command -/

/-- The OP field of an operation (30_encoding.md R89). -/
def Op.code : Op → Nat
  | .conv => 1
  | .median => 2
  | .min => 3
  | .max => 4
  | .midpoint => 5
  | .dct => 6
  | .idct => 7
  | .lowpass => 8
  | .highpass => 9
  | .normalize => 10

theorem latchedCommand_eq_some_iff {l : Params} {op : Op} {vis : Bool} :
    latchedCommand l = some (op, vis) ↔ ∃ i, decodeCommand l.cmd = .ok i ∧ commandOp i = some (op, vis) := by
  rw [latchedCommand]
  cases decodeCommand l.cmd <;> simp

theorem fields_of_latchedCommand {l : Params} {op : Op} {vis : Bool} (h : latchedCommand l = some (op, vis)) :
    l.cmd.toNat % 16 = op.code ∧ l.cmd.toNat / 16 % 2 = vis.toNat := by
  obtain ⟨i, hdec, hop⟩ := latchedCommand_eq_some_iff.mp h
  have hword : (encode i).2 = l.cmd := congrArg Prod.snd (decodeCommand_eq_ok_iff_encode.mp hdec)
  rw [← hword]
  cases i <;> cases hop <;> decide

/-- A command is latched exactly when the word passes the pseudocode's first test (40_command_control.md R123). -/
theorem latchedCommand_isSome_iff {l : Params} :
    (latchedCommand l).isSome = true ↔
      1 ≤ l.cmd.toNat % 16 ∧ l.cmd.toNat % 16 ≤ 10 ∧ l.cmd.toNat / 32 = 0 ∧
        (l.cmd.toNat / 16 % 2 = 0 ∨ l.cmd.toNat % 16 = 6 ∨ l.cmd.toNat % 16 = 8 ∨ l.cmd.toNat % 16 = 9) := by
  have hvis : l.cmd.getLsbD 4 = false ↔ l.cmd.toNat / 16 % 2 = 0 := by
    simp [BitVec.getLsbD, Nat.testBit_eq_decide_div_mod_eq]
  have hsome : (latchedCommand l).isSome = true ↔ ∃ i, decodeCommand l.cmd = .ok i := by
    simp only [Option.isSome_iff_exists, Prod.exists, latchedCommand_eq_some_iff]
    exact ⟨fun ⟨_, _, i, hdec, _⟩ => ⟨i, hdec⟩, fun ⟨i, hdec⟩ =>
      have ⟨op, vis, hop⟩ := commandOp_of_decodeCommand hdec
      ⟨op, vis, i, hdec, hop⟩⟩
  rw [hsome, exists_decodeCommand_iff, hvis]
  tauto

/-! ### The checks -/

/-- Half the side of an order statistic's window is DIST (42_order_stat.md R148). -/
theorem half_orderSide (l : Params) : (2 * l.dist.toNat + 1) / 2 = l.dist.toNat := by omega

/-- `half` of the pseudocode. -/
theorem half_eq_border (op : Op) (l : Params) :
    (if op.code = 1 then Nat.sqrt l.klen.toNat / 2 else if 2 ≤ op.code ∧ op.code ≤ 5 then l.dist.toNat else 0) = border op l := by
  cases op <;> simp [border, windowSide, isqrt_eq_sqrt, Op.code, half_orderSide]

theorem dimBad_iff {c : Config} {l : Params} :
    dimBad c l = true ↔ l.width.toNat = 0 ∨ l.height.toNat = 0 ∨ c.maxW.toNat < l.width.toNat ∨ c.maxH.toNat < l.height.toNat ∨
      l.srcLen.toNat ≠ l.width.toNat * l.height.toNat := by
  simp [dimBad, or_assoc]

theorem kernelBad_iff {c : Config} {op : Op} {l : Params} :
    kernelBad c op l = true ↔
      (op.code = 1 ∧ (l.klen.toNat = 0 ∨ Nat.sqrt l.klen.toNat * Nat.sqrt l.klen.toNat ≠ l.klen.toNat ∨
        c.kmaxSide.toNat < Nat.sqrt l.klen.toNat ∨ l.width.toNat ≤ 2 * border op l ∨ l.height.toNat ≤ 2 * border op l)) ∨
      ((2 ≤ op.code ∧ op.code ≤ 5) ∧
        (c.dmax.toNat < l.dist.toNat ∨ l.width.toNat ≤ 2 * l.dist.toNat ∨ l.height.toNat ≤ 2 * l.dist.toNat)) := by
  cases op <;> simp [kernelBad, emptyRegion, Op.code, isqrt_eq_sqrt, or_assoc, border, windowSide, half_orderSide]

theorem alignBad_iff {op : Op} {vis : Bool} {l : Params} :
    alignBad op vis l = true ↔
      (l.srcAddr.toNat % 4 ≠ 0 ∨ l.dstAddr.toNat % 4 ≠ 0) ∨ (op.code = 1 ∧ l.kerAddr.toNat % 4 ≠ 0) ∨
        (vis.toNat = 1 ∧ l.visAddr.toNat % 4 ≠ 0) := by
  cases op <;> cases vis <;> simp [alignBad, Op.code, or_assoc]

theorem any_inputRanges (op : Op) (l : Params) (p : AddrRange → Bool) :
    (inputRanges op l).any p = (p (sourceRange l) || (decide (op.code = 1) && p (kernelRange l))) := by
  cases op <;> simp [inputRanges, Op.code]

theorem any_outputRanges (op : Op) (vis : Bool) (l : Params) (p : AddrRange → Bool) :
    (outputRanges op vis l).any p = (p (dstRange op l) || (vis && p (visRange l))) := by
  cases vis <;> simp [outputRanges]

/-- Some range runs past address 2^32-1. -/
theorem any_range_past_iff {op : Op} {vis : Bool} {l : Params} :
    (inputRanges op l ++ outputRanges op vis l).any (fun r => decide (2 ^ 32 < r.hi)) = true ↔
      2 ^ 32 < l.srcAddr.toNat + 4 * l.srcLen.toNat ∨ 2 ^ 32 < l.dstAddr.toNat + 4 * (outWidth op l * outHeight op l) ∨
        (op.code = 1 ∧ 2 ^ 32 < l.kerAddr.toNat + 4 * l.klen.toNat) ∨
        (vis.toNat = 1 ∧ 2 ^ 32 < l.visAddr.toNat + 4 * (l.width.toNat * l.height.toNat)) := by
  rw [List.any_append, any_inputRanges, any_outputRanges]
  simp only [Bool.or_eq_true, Bool.and_eq_true, decide_eq_true_eq, Bool.toNat_eq_one]
  rw [or_or_or_comm, or_assoc]
  rfl

theorem overlaps_elementRange_iff {a m b n : Nat} :
    AddrRange.overlaps (elementRange a m) (elementRange b n) = true ↔ a < b + 4 * n ∧ b < a + 4 * m := by
  simp only [AddrRange.overlaps, Bool.and_eq_true, decide_eq_true_eq]
  rfl

theorem addrBad_iff {op : Op} {vis : Bool} {l : Params} :
    addrBad op vis l = true ↔
      (2 ^ 32 < l.srcAddr.toNat + 4 * l.srcLen.toNat ∨ 2 ^ 32 < l.dstAddr.toNat + 4 * (outWidth op l * outHeight op l) ∨
        (op.code = 1 ∧ 2 ^ 32 < l.kerAddr.toNat + 4 * l.klen.toNat) ∨
        (vis.toNat = 1 ∧ 2 ^ 32 < l.visAddr.toNat + 4 * (l.width.toNat * l.height.toNat))) ∨
      (l.dstAddr.toNat < l.srcAddr.toNat + 4 * l.srcLen.toNat ∧
        l.srcAddr.toNat < l.dstAddr.toNat + 4 * (outWidth op l * outHeight op l)) ∨
      (op.code = 1 ∧ l.dstAddr.toNat < l.kerAddr.toNat + 4 * l.klen.toNat ∧
        l.kerAddr.toNat < l.dstAddr.toNat + 4 * (outWidth op l * outHeight op l)) ∨
      (vis.toNat = 1 ∧
        ((l.visAddr.toNat < l.srcAddr.toNat + 4 * l.srcLen.toNat ∧
          l.srcAddr.toNat < l.visAddr.toNat + 4 * (l.width.toNat * l.height.toNat)) ∨
        (l.visAddr.toNat < l.dstAddr.toNat + 4 * (outWidth op l * outHeight op l) ∧
          l.dstAddr.toNat < l.visAddr.toNat + 4 * (l.width.toNat * l.height.toNat)))) := by
  rw [addrBad, any_inputRanges, Bool.or_eq_true, Bool.or_eq_true, any_range_past_iff]
  simp only [sourceRange, kernelRange, dstRange, visRange, Bool.or_eq_true, Bool.and_eq_true, decide_eq_true_eq,
    overlaps_elementRange_iff, Bool.toNat_eq_one, or_assoc]

/-! ### Validation -/

/-- The number `validate` answers. -/
def errorNumber : Option CmdError → Nat
  | none => 0
  | some e => e.code.toNat

/-- The pseudocode for a legal word, its tests joined by the check they belong to. -/
theorem errorNumber_validateOperands {c : Config} {op : Op} {vis : Bool} {l : Params} (h : latchedCommand l = some (op, vis)) :
    errorNumber (validateOperands c op vis l) = validateCode c l := by
  obtain ⟨hop, hvis⟩ := fields_of_latchedCommand h
  have hlegal := latchedCommand_isSome_iff.mp (Option.isSome_of_eq_some h)
  simp only [validateCode]
  rw [if_neg (not_not.mpr hlegal)]
  simp only [hop, hvis, half_eq_border]
  simp only [validateOperands, apply_ite errorNumber, dimBad_iff, kernelBad_iff, alignBad_iff, addrBad_iff, ite_or]
  rfl

/-- Settles O19. -/
theorem validationIsThePseudocode : Obligations.ValidationIsThePseudocode := by
  intro c l
  have hnumber : errorNumber (validate c l) = validateCode c l := by
    cases h : latchedCommand l with
    | none =>
      have hillegal := mt latchedCommand_isSome_iff.mpr (by simp [h] : ¬ (latchedCommand l).isSome = true)
      simp only [validate, h, validateCode]
      rw [if_pos hillegal]
      rfl
    | some command =>
      rw [validate, h]
      exact errorNumber_validateOperands h
  rw [← hnumber]
  cases validate c l <;> rfl

theorem execCommand_of_invalid {op : Op} {vis : Bool} {e : CmdError} {s : State} (hbusy : s.seq = .busy)
    (hinvalid : validateOperands s.cfg op vis s.latch = some e) (compute : Config → Params → Memory → Result) :
    execCommand op vis compute s = completeError e s := by
  simp [execCommand, hbusy, hinvalid]

/-- Settles O20. -/
theorem validationErrorCompletes : Obligations.ValidationErrorCompletes := by
  intro s i op vis e hbusy hop hinvalid
  obtain ⟨compute, hexec⟩ := exec_eq_execCommand hop s
  rw [hexec, execCommand_of_invalid hbusy hinvalid]
  rfl

end Sys2Proof.Machine
end

section
/-! The result of a command as a function of LATCH and of the bytes it reads (40_command_control.md R125). -/

namespace Sys2Proof.Machine

open Sys2Proof.Reference

/-! ### Words written over two memories -/

namespace Memory

/-- The same words written over two memories leave every byte equal that they cover or that was equal before. -/
theorem read_writeWords_eq {m m' : Memory} (hm : m.wf = true) (hm' : m'.wf = true) {a x : Nat} {ws : List Word} (hx : x < 2 ^ 32)
    (h : (a ≤ x ∧ x < a + 4 * ws.length) ∨ m.read x = m'.read x) : (m.writeWords a ws).read x = (m'.writeWords a ws).read x := by
  by_cases hin : a ≤ x ∧ x < a + 4 * ws.length
  · obtain ⟨i, j, hi, hj, rfl⟩ : ∃ i j, i < ws.length ∧ j < 4 ∧ x = a + 4 * i + j :=
      ⟨(x - a) / 4, (x - a) % 4, by omega, by omega, by omega⟩
    rw [read_writeWords hm hi hj hx, read_writeWords hm' hi hj hx]
  · rw [read_writeWords_of_not_mem _ _ (by omega), read_writeWords_of_not_mem _ _ (by omega)]
    exact h.resolve_left hin

end Memory

/-! ### Equal inputs -/

/-- The two memories hold the same bytes in the ranges the command only reads. -/
def SameInputs (op : Op) (l : Params) (m m' : Memory) : Prop :=
  ∀ a, (∃ r ∈ inputRanges op l, AddrRange.contains r a = true) → m.read a = m'.read a

theorem SameInputs.readWord {op : Op} {l : Params} {m m' : Memory} (h : SameInputs op l m m') {base n i : Nat}
    (hr : elementRange base n ∈ inputRanges op l) (hi : i < n) : m.readWord (base + 4 * i) = m'.readWord (base + 4 * i) :=
  Memory.readWord_congr fun j hj => h _ ⟨_, hr, AddrRange.contains_eq_true.mpr (by simp only [elementRange]; omega)⟩

theorem grid_congr {α : Type} {cols rows : Nat} {f g : Nat → Nat → α} (h : ∀ x < cols, ∀ y < rows, f x y = g x y) :
    grid cols rows f = grid cols rows g :=
  List.flatMap_congr fun y hy => List.map_congr_left fun x hx => h x (List.mem_range.mp hx) y (List.mem_range.mp hy)

section

variable {c : Config} {op : Op} {vis : Bool} {l : Params} {m m' : Memory} (hvalid : validateOperands c op vis l = none)
  (hsame : SameInputs op l m m')

include hvalid hsame

theorem readWord_source_congr {i : Nat} (hi : i < l.width.toNat * l.height.toNat) :
    m.readWord (l.srcAddr.toNat + 4 * i) = m'.readWord (l.srcAddr.toNat + 4 * i) := by
  obtain ⟨-, -, hlen⟩ := image_of_valid hvalid
  exact hsame.readWord (sourceRange_mem_inputRanges op l) (hlen ▸ hi)

theorem srcPix_congr {x y : Nat} (hx : x < l.width.toNat) (hy : y < l.height.toNat) : srcPix m l x y = srcPix m' l x y :=
  readWord_source_congr hvalid hsame ((grid_index_lt hx hy).trans_eq (Nat.mul_comm _ _))

/-- The image read row by row, each pixel through a function of it. -/
theorem imageRows_congr {α : Type} (f : Word → α) :
    ((List.range l.height.toNat).map fun y => (List.range l.width.toNat).map fun x => f (srcPix m l x y)) =
      (List.range l.height.toNat).map fun y => (List.range l.width.toNat).map fun x => f (srcPix m' l x y) :=
  List.map_congr_left fun _ hy => List.map_congr_left fun _ hx =>
    congrArg f (srcPix_congr hvalid hsame (List.mem_range.mp hx) (List.mem_range.mp hy))

/-- The window of an output element lies in the image (41_fir.md R132, 42_order_stat.md R148). -/
theorem srcPix_window_congr {ox oy kx ky : Nat} (hox : ox < outWidth op l) (hoy : oy < outHeight op l) (hkx : kx < windowSide op l)
    (hky : ky < windowSide op l) :
    srcPix m l (ox + border op l - border op l + kx) (oy + border op l - border op l + ky) =
      srcPix m' l (ox + border op l - border op l + kx) (oy + border op l - border op l + ky) := by
  have hhalf : windowSide op l ≤ 2 * border op l + 1 := by simp only [border]; omega
  simp only [outWidth, outHeight] at hox hoy
  exact srcPix_congr hvalid hsame (by omega) (by omega)

end

/-- The kernel is square (41_fir.md R130). -/
theorem kernelSide_of_valid {c : Config} {vis : Bool} {l : Params} (hvalid : validateOperands c .conv vis l = none) :
    windowSide .conv l * windowSide .conv l = l.klen.toNat := by
  obtain ⟨-, hkernel, -, -⟩ := validateOperands_eq_none.mp hvalid
  simp only [kernelBad, Bool.or_eq_false_iff, bne_eq_false_iff_eq] at hkernel
  exact hkernel.1.1.2

/-! ### Equal results -/

/-- The computation of a command is a function of LATCH and its inputs, whatever the number of workers, and gives a word for each element
of the outputs. -/
structure Determined (op : Op) (vis : Bool) (compute : Config → Params → Memory → Result) : Prop where
  congr : ∀ {c c' l m m'}, c.wf = true → c'.wf = true → validateOperands c op vis l = none → SameInputs op l m m' →
    compute c l m = compute c' l m'
  dst : ∀ {c l m}, c.wf = true → (compute c l m).dst.length = outWidth op l * outHeight op l
  vis : ∀ {c l m}, c.wf = true → (compute c l m).vis.length = visCount vis l

theorem numWorkers_pos_of_wf {c : Config} (h : c.wf = true) : 0 < c.numWorkers.toNat := by
  simp only [Config.wf, Bool.and_eq_true, decide_eq_true_eq] at h
  exact h.2

theorem firResult_determined : Determined .conv false firResult where
  congr {c _ l m m'} _ _ hvalid hsame := by
    have hweight {i : Nat} (hi : i < l.klen.toNat) : kernelWeight l m i = kernelWeight l m' i :=
      hsame.readWord (by simp [inputRanges, kernelRange]) hi
    have hsquare := kernelSide_of_valid hvalid
    have hpixel : ∀ ox < outWidth .conv l, ∀ oy < outHeight .conv l, firPixel l m ox oy = firPixel l m' ox oy := by
      intro ox hox oy hoy
      have hproducts (lane : Nat) : firProducts l m ox oy lane = firProducts l m' ox oy lane :=
        grid_congr fun kx hkx ky hky => by
          rw [srcPix_window_congr hvalid hsame hox hoy hkx hky, hweight (hsquare ▸ grid_index_lt hkx hky)]
      simp only [firPixel, firLane, hproducts]
    simp only [firResult, grid_congr hpixel]
  dst _ := by simp [firResult, Nat.mul_comm]
  vis _ := rfl

theorem orderResult_determined (op : Op) (select : List Nat → Word) : Determined op false (orderResult op select) where
  congr {_ _ l m m'} _ _ hvalid hsame := by
    have hselect : ∀ ox < outWidth op l, ∀ oy < outHeight op l,
        select (sortKeys (windowKeys op l m ox oy)) = select (sortKeys (windowKeys op l m' ox oy)) := by
      intro ox hox oy hoy
      have hkeys : windowKeys op l m ox oy = windowKeys op l m' ox oy :=
        grid_congr fun kx hkx ky hky => congrArg key (srcPix_window_congr hvalid hsame hox hoy hkx hky)
      rw [hkeys]
    simp only [orderResult, grid_congr hselect]
  dst _ := by simp [orderResult, Nat.mul_comm]
  vis _ := rfl

/-- Without a window the output has the size of the image. -/
theorem outSize_of_side_one {op : Op} {l : Params} (hside : windowSide op l = 1) :
    outWidth op l * outHeight op l = l.width.toNat * l.height.toNat := by
  simp [outWidth, outHeight, border, hside]

/-- A spectral command is determined where its destination words are: the visual words are computed from them (44_spectral_mask.md R187). -/
theorem spectralResult_determined {op : Op} (vis : Bool) {dst : Config → Params → Memory → List Word}
    (hside : ∀ l, windowSide op l = 1)
    (hlen : ∀ {c l m}, c.wf = true → (dst c l m).length = l.height.toNat * l.width.toNat)
    (hcongr : ∀ {c c' l m m'}, c.wf = true → c'.wf = true → validateOperands c op vis l = none → SameInputs op l m m' →
      dst c l m = dst c' l m') :
    Determined op vis fun c l m => spectralResult vis (dst c l m) where
  congr hc hc' hvalid hsame := congrArg (spectralResult vis) (hcongr hc hc' hvalid hsame)
  dst {_ l _} hc := by
    rw [outSize_of_side_one (hside l), Nat.mul_comm, ← hlen hc]
    cases vis <;> rfl
  vis {_ l _} hc := by
    cases vis with
    | false => rfl
    | true => rw [spectralResult, if_pos rfl, length_normWords, hlen hc, visCount, if_pos rfl, Nat.mul_comm]

theorem mask_determined (op : Op) (vis : Bool) (hside : ∀ l, windowSide op l = 1) (f : Params → Nat → Nat → Word → Word) :
    Determined op vis fun _ l m => spectralResult vis (grid l.width.toNat l.height.toNat fun u v => f l u v (srcPix m l u v)) :=
  spectralResult_determined vis hside (fun _ => length_grid ..) fun _ _ hvalid hsame =>
    grid_congr fun u hu v hv => congrArg (f _ u v) (srcPix_congr hvalid hsame hu hv)

/-- The lines of a pass, put together, are a grid, whatever the number of workers (43_dct.md R175). -/
theorem flatten_fanOut_eq_grid {α : Type} {p : Nat} (hp : 0 < p) (rows cols : Nat) (f : Nat → Nat → α) :
    (fanOut p rows fun y => (List.range cols).map (f y)).flatten = grid cols rows fun x y => f y x := by
  rw [fanOut_eq hp]
  rfl

theorem dctResult_determined (vis : Bool) : Determined .dct vis (dctResult vis) :=
  spectralResult_determined vis (fun _ => rfl)
    (fun hc => by simp only [spectrum, dctCols, flatten_fanOut_eq_grid (numWorkers_pos_of_wf hc), length_grid])
    fun {_ _ l m m'} hc hc' hvalid hsame => by
      have hsamples : dctSamples l m = dctSamples l m' := imageRows_congr hvalid hsame dctSample
      simp only [spectrum, dctRows, dctCols, fanOut_eq (numWorkers_pos_of_wf hc), fanOut_eq (numWorkers_pos_of_wf hc'), hsamples]

theorem idctResult_determined : Determined .idct false idctResult where
  congr {_ _ l m m'} hc hc' hvalid hsame := by
    have hinput : idctInput l m = idctInput l m' := imageRows_congr hvalid hsame id
    simp only [idctResult, idctRows, idctCols, fanOut_eq (numWorkers_pos_of_wf hc), fanOut_eq (numWorkers_pos_of_wf hc'), hinput]
  dst hc := by
    rw [outSize_of_side_one rfl, Nat.mul_comm]
    simp only [idctResult, idctCols, flatten_fanOut_eq_grid (numWorkers_pos_of_wf hc), List.length_map, length_grid]
  vis _ := rfl

theorem normalizeResult_determined : Determined .normalize false normalizeResult where
  congr {_ _ l m m'} _ _ hvalid hsame := by
    have hcoefficients : coefficients l m = coefficients l m' :=
      List.map_congr_left fun _ hi => readWord_source_congr hvalid hsame (List.mem_range.mp hi)
    rw [normalizeResult, normalizeResult, hcoefficients]
  dst _ := by
    rw [outSize_of_side_one rfl]
    simp [normalizeResult, length_normWords, coefficients]
  vis _ := rfl

/-- Every command is EXEC of its operation with a computation that its inputs determine. -/
theorem exec_command_determined {i : Instr} {op : Op} {vis : Bool} (h : commandOp i = some (op, vis)) :
    ∃ compute, (∀ s, exec i s = .next (execCommand op vis compute s)) ∧ Determined op vis compute := by
  cases i <;> cases h
  case conv => exact ⟨_, fun _ => rfl, firResult_determined⟩
  case median | min | max | midpoint => exact ⟨_, fun _ => rfl, orderResult_determined _ _⟩
  case dct | dctVis => exact ⟨_, fun _ => rfl, dctResult_determined _⟩
  case idct => exact ⟨_, fun _ => rfl, idctResult_determined⟩
  case lowpass | lowpassVis =>
    exact ⟨_, fun _ => rfl, mask_determined .lowpass _ (fun _ => rfl) fun l u v w => if outside l u v then 0 else w⟩
  case highpass | highpassVis =>
    exact ⟨_, fun _ => rfl, mask_determined .highpass _ (fun _ => rfl) fun l u v w => if outside l u v then w else 0⟩
  case normalize => exact ⟨_, fun _ => rfl, normalizeResult_determined⟩

/-! ### Equal outputs -/

/-- A result that fills the outputs of a valid command leaves no byte of them to what memory held before. -/
theorem read_outputs_eq {c : Config} {op : Op} {vis : Bool} {l : Params} {m m' : Memory} {dst out : List Word}
    (hvalid : validateOperands c op vis l = none) (hm : m.wf = true) (hm' : m'.wf = true)
    (hdst : dst.length = outWidth op l * outHeight op l) (hout : out.length = visCount vis l) {a : Nat}
    (ha : ∃ r ∈ outputRanges op vis l, AddrRange.contains r a = true) :
    ((m.writeWords l.dstAddr.toNat dst).writeWords l.visAddr.toNat out).read a =
      ((m'.writeWords l.dstAddr.toNat dst).writeWords l.visAddr.toNat out).read a := by
  obtain ⟨r, hr, hcontains⟩ := ha
  obtain ⟨hlo, hhi⟩ := AddrRange.contains_eq_true.mp hcontains
  have hbound : a < 2 ^ 32 := hhi.trans_le ((ranges_of_valid hvalid).1 r (List.mem_append_right _ hr))
  refine Memory.read_writeWords_eq (Memory.wf_writeWords hm _ _) (Memory.wf_writeWords hm' _ _) hbound ?_
  cases vis with
  | false =>
    obtain rfl : r = dstRange op l := by simpa [outputRanges] using hr
    exact .inr (Memory.read_writeWords_eq hm hm' hbound (.inl ⟨hlo, hdst ▸ hhi⟩))
  | true =>
    obtain rfl | rfl : r = dstRange op l ∨ r = visRange l := by simpa [outputRanges] using hr
    · exact .inr (Memory.read_writeWords_eq hm hm' hbound (.inl ⟨hlo, hdst ▸ hhi⟩))
    · exact .inl ⟨hlo, hout ▸ hhi⟩

/-- Settles O40: both machines store the same result, and it fills the outputs. -/
theorem resultIsFunctionOfInputs : Obligations.ResultIsFunctionOfInputs := by
  intro i op vis s s' hop hrun hrun' hm hm' hc hc' hlatch hsame
  obtain ⟨compute, hexec, hdetermined⟩ := exec_command_determined hop
  have hresult : compute s.cfg s.latch s.mem = compute s'.cfg s'.latch s'.mem :=
    hlatch ▸ hdetermined.congr hc hc' hrun.valid hsame
  rw [hexec, hexec, execCommand_of_running hrun, execCommand_of_running hrun', ← hresult]
  refine ⟨_, _, rfl, rfl, rfl, ?_, ?_, fun a ha => ?_⟩
  · simp only [storeResult, completeOk_outW, hlatch]
  · simp only [storeResult, completeOk_outH, hlatch]
  · simp only [storeResult, completeOk_mem, ← hlatch]
    exact read_outputs_eq hrun.valid hm hm' (hdetermined.dst hc) (hdetermined.vis hc) ha

end Sys2Proof.Machine
end

section
/-! SUPPORT. What a command without visual output stores, element by element, and pixel words by their lanes (00_scope.md R20, R23). -/

namespace Sys2Proof.Machine

open Sys2Proof.Reference

/-- A grid in one loop: its columns and rows are remainder and quotient of the position. -/
theorem grid_eq_map_range {α : Type} (cols rows : Nat) (f : Nat → Nat → α) :
    grid cols rows f = (List.range (rows * cols)).map fun i => f (i % cols) (i / cols) := by
  refine List.ext_getElem (by simp) fun i hi _ => ?_
  have hi' : i < rows * cols := by simpa using hi
  have hcols : 0 < cols := Nat.pos_of_mul_pos_left (Nat.zero_lt_of_lt hi')
  have helement := getElem_grid f (Nat.mod_lt i hcols) (Nat.div_lt_of_lt_mul (Nat.mul_comm rows cols ▸ hi'))
  simpa only [Nat.div_add_mod', List.getElem_map, List.getElem_range] using helement

/-- A running command whose result is a grid completes with DEGEN = 0, and output element (ox, oy) is the grid's value there. -/
theorem execCommand_grid {op : Op} {s : State} {compute : Config → Params → Memory → Result} {f : Nat → Nat → Word}
    (hrun : Running op false s) (hmem : s.mem.wf = true)
    (hcompute : compute s.cfg s.latch s.mem = ⟨grid (outWidth op s.latch) (outHeight op s.latch) f, [], false⟩) :
    Completed op false s (execCommand op false compute s) ∧ (execCommand op false compute s).degen = false ∧
      ∀ ox oy, ox < outWidth op s.latch → oy < outHeight op s.latch →
        output s (execCommand op false compute s) (outWidth op s.latch) ox oy = f ox oy := by
  have hfits : Result.Fits op false s.latch ⟨grid (outWidth op s.latch) (outHeight op s.latch) f, [], false⟩ := grid_fits f false
  rw [execCommand_of_running hrun, hcompute]
  refine ⟨storeResult_completed s hfits.dst hfits.vis, rfl, fun ox oy hox hoy => ?_⟩
  have hi : oy * outWidth op s.latch + ox < (grid (outWidth op s.latch) (outHeight op s.latch) f).length := by
    simpa using grid_index_lt hox hoy
  exact (readWord_dst_of_valid hrun.valid hmem hfits.dst hfits.vis hi).trans (getElem_grid f hox hoy)

/-! ### Lanes -/

/-- The bytes of a packed colour are its lanes, and byte 3 is 0 (00_scope.md R20). -/
theorem bytes_pack (l0 l1 l2 : Byte) :
    lane (pack l0 l1 l2) 0 = l0 ∧ lane (pack l0 l1 l2) 1 = l1 ∧ lane (pack l0 l1 l2) 2 = l2 ∧
      (pack l0 l1 l2).extractLsb' 24 8 = 0 := by
  have hbytes : wordBytes (pack l0 l1 l2) = [l0, l1, l2, 0] := wordBytes_wordOfBytes l0 l1 l2 0
  simp only [wordBytes, List.cons.injEq, and_true] at hbytes
  exact hbytes

theorem lane_pack (l : Nat → Byte) {c : Nat} (hc : c < 3) : lane (pack (l 0) (l 1) (l 2)) c = l c := by
  obtain ⟨h0, h1, h2, -⟩ := bytes_pack (l 0) (l 1) (l 2)
  match c, hc with
  | 0, _ => exact h0
  | 1, _ => exact h1
  | 2, _ => exact h2

theorem byteThree_pack (l0 l1 l2 : Byte) : (pack l0 l1 l2).extractLsb' 24 8 = 0 := by
  obtain ⟨-, -, -, hbyte⟩ := bytes_pack l0 l1 l2
  exact hbyte

/-- A word with the lanes of `v` and byte 3 zero is `v` with byte 3 cleared. -/
theorem eq_masked_of_lanes {w v : Word} (hlanes : ∀ c < 3, lane w c = lane v c) (hbyte : w.extractLsb' 24 8 = 0) :
    w = v &&& 0x00FFFFFF := by
  have hmask : ∀ c < 3, BitVec.extractLsb' (8 * c) 8 (0x00FFFFFF : Word) = BitVec.allOnes 8 := by decide
  have hmasked (c : Nat) (hc : c < 3) : lane w c = lane (v &&& 0x00FFFFFF) c := by
    rw [hlanes c hc, lane, lane, BitVec.extractLsb'_and, hmask c hc, BitVec.and_allOnes]
  have hcleared : (v &&& 0x00FFFFFF).extractLsb' 24 8 = 0 := by
    rw [BitVec.extractLsb'_and]
    exact BitVec.and_zero
  rw [← Memory.wordOfBytes_wordBytes w, ← Memory.wordOfBytes_wordBytes (v &&& 0x00FFFFFF), hbyte, hcleared]
  congr 1
  · exact hmasked 0 (by decide)
  · exact hmasked 1 (by decide)
  · exact hmasked 2 (by decide)

end Sys2Proof.Machine
end

section
/-! SUPPORT. Where binary32 arithmetic is exact: zero and one as operands, and the bytes (00_scope.md R13, R15, R16). -/

namespace Sys2Proof.Machine

open Sys2Proof.Reference

/-- A finite value without sign: +0.0 or positive. -/
def NonnegF32 (a : F32) : Prop := FiniteF32 a ∧ f32Sign a = false

theorem nonnegF32_zero : NonnegF32 0 := by unfold NonnegF32 FiniteF32; decide

theorem nonnegF32_f32OfNat {n : Nat} (hn : n ≤ 2 ^ 24) : NonnegF32 (f32OfNat n) :=
  ⟨(f32OfNat_exact hn).1, sign_f32Pack_roundMag _ _ _⟩

theorem f32Signed_of_nonneg {a : F32} (h : NonnegF32 a) : f32Signed a = f32Mag a := by
  rw [f32Signed, h.2, if_neg Bool.false_ne_true]

/-- An encoding is its sign on its bits 30:0. -/
theorem f32Pack_sign_bits (a : F32) : f32Pack (f32Sign a) (f32Bits a) = a := by
  refine BitVec.eq_of_toNat_eq ?_
  rw [toNat_f32Pack _ (f32Bits_lt a), f32Sign_eq, f32Bits]
  have := a.isLt
  simp only [decide_eq_true_eq]
  split_ifs <;> omega

/-- A quotient with an encoding rounds to that encoding. -/
theorem roundMag_mul_bitsMag {b d : Nat} (hb : b ≤ 0x7F800000) (hd : 0 < d) : roundMag (d * bitsMag b) d = b := by
  obtain ⟨r, hr, hnear⟩ := exists_nearestBits_roundMag (d * bitsMag b) hd
  have hzero := (hnear b).1
  rw [Nat.cast_mul, mul_div_cancel_left₀ _ (by exact_mod_cast hd.ne'), sub_self, abs_zero, abs_nonpos_iff, sub_eq_zero,
    Nat.cast_inj] at hzero
  rw [hr, bitsMag_strictMono.injective hzero, Nat.min_eq_left hb]

theorem fadd_of_nonneg {a b : F32} (ha : NonnegF32 a) (hb : NonnegF32 b) :
    fadd a b = f32Pack false (roundMag (f32Mag a + f32Mag b) 1) := by
  have hsum : f32Signed a + f32Signed b = (f32Mag a + f32Mag b : ℕ) := by
    rw [f32Signed_of_nonneg ha, f32Signed_of_nonneg hb, Nat.cast_add]
  have hsign : sumSign a b = false := by
    rw [sumSign, hsum, ha.2, Bool.false_and, ite_eq_left_iff]
    exact fun _ => decide_eq_false (Int.natCast_nonneg _).not_gt
  rw [fadd_of_finite ha.1 hb.1, hsign, hsum, Int.natAbs_natCast]

theorem f32Pack_roundMag_of_nonneg {a : F32} (h : NonnegF32 a) : f32Pack false (roundMag (f32Mag a) 1) = a := by
  rw [f32Mag_eq, roundMag_bitsMag (finiteF32_iff.mp h.1).le, ← h.2, f32Pack_sign_bits]

theorem fadd_zero_right {a : F32} (h : NonnegF32 a) : fadd a 0 = a :=
  (fadd_of_nonneg h nonnegF32_zero).trans (f32Pack_roundMag_of_nonneg h)

theorem fadd_zero_left {a : F32} (h : NonnegF32 a) : fadd 0 a = a := by
  rw [fadd_of_nonneg nonnegF32_zero h, Nat.add_comm]
  exact f32Pack_roundMag_of_nonneg h

theorem fmul_zero_left {a : F32} (h : NonnegF32 a) : fmul 0 a = 0 := by
  have hmag : f32Mag 0 = 0 := rfl
  rw [fmul_of_finite nonnegF32_zero.1 h.1, nonnegF32_zero.2, h.2, hmag, Nat.zero_mul, roundMag_zero]
  rfl

/-- 0x3F800000 is 1.0. -/
theorem fmul_one_left {a : F32} (h : FiniteF32 a) : fmul 0x3F800000 a = a := by
  have hone : FiniteF32 0x3F800000 ∧ f32Sign 0x3F800000 = false ∧ f32Mag 0x3F800000 = 2 ^ 149 := by
    unfold FiniteF32
    decide
  obtain ⟨hfin, hsign, hmag⟩ := hone
  rw [fmul_of_finite hfin h, hsign, hmag, f32Mag_eq, roundMag_mul_bitsMag (finiteF32_iff.mp h).le (Nat.two_pow_pos _),
    Bool.false_bne, f32Pack_sign_bits]

/-- A sum in which one term only is not +0.0 is that term. -/
theorem sum_single_term {a : F32} (h : NonnegF32 a) (k n : Nat) :
    (List.range n).foldl (fun acc i => fadd acc (if i = k then a else 0)) 0 = if k < n then a else 0 := by
  induction n with
  | zero => rfl
  | succ n ih =>
    rw [List.range_succ, List.foldl_append, ih, List.foldl_cons, List.foldl_nil]
    rcases lt_trichotomy k n with hlt | rfl | hgt
    · rw [if_pos hlt, if_neg hlt.ne', if_pos (hlt.trans n.lt_succ_self), fadd_zero_right h]
    · rw [if_neg (lt_irrefl k), if_pos rfl, if_pos k.lt_succ_self, fadd_zero_left h]
    · rw [if_neg hgt.le.not_gt, if_neg hgt.ne, if_neg (by omega), fadd_zero_right nonnegF32_zero]

theorem f32Mag_f32OfNat {n : Nat} (hn : n ≤ 2 ^ 24) : f32Mag (f32OfNat n) = n * 2 ^ 149 := by
  have hvalue := (f32OfNat_exact hn).2
  rw [realValue_eq, f32Signed_of_nonneg (nonnegF32_f32OfNat hn), div_eq_iff (by positivity)] at hvalue
  exact_mod_cast hvalue

/-- A byte is kept by the conversion and back (00_scope.md R15, R16). -/
theorem satU8_f32OfNat (b : Byte) : satU8 (f32OfNat b.toNat) = b := by
  have hb := b.isLt
  have hn : b.toNat ≤ 2 ^ 24 := by omega
  have hnonneg := nonnegF32_f32OfNat hn
  rw [satU8_of_finite hnonneg.1, f32Signed_of_nonneg hnonneg, f32Mag_f32OfNat hn, Nat.mul_div_cancel _ (Nat.two_pow_pos _)]
  refine BitVec.eq_of_toNat_eq ?_
  split_ifs with hzero hmax
  · have : b.toNat = 0 := by omega
    simp [this]
  · have : b.toNat = 255 := by omega
    simp [this]
  · simp

end Sys2Proof.Machine
end

section
/-! The statements about CONV (41_fir.md). -/

namespace Sys2Proof.Machine

open Sys2Proof.Reference

/-- The side of the kernel, by the model's root and by the reference's (41_fir.md R130). -/
theorem windowSide_conv (s : State) : windowSide .conv s.latch = firSide s := isqrt_eq_sqrt _

theorem outWidth_conv (s : State) : outWidth .conv s.latch = W s - 2 * (firSide s / 2) := by
  rw [outWidth, border, windowSide_conv, W]

theorem outHeight_conv (s : State) : outHeight .conv s.latch = H s - 2 * (firSide s / 2) := by
  rw [outHeight, border, windowSide_conv, H]

/-- The model's nested loops over the window are the one loop over the weights (41_fir.md R135). -/
theorem fsum_firProducts (s : State) (ox oy c : Nat) : fsum (firProducts s.latch s.mem ox oy c) = firSum s ox oy c := by
  have hproducts : firProducts s.latch s.mem ox oy c = (List.range (firSide s * firSide s)).map fun i =>
      fmul (s.mem.readWord (s.latch.kerAddr.toNat + 4 * i))
        (f32OfNat (lane (source s (ox + i % firSide s) (oy + i / firSide s)) c).toNat) := by
    have hgrid := grid_eq_map_range (firSide s) (firSide s) fun kx ky =>
      fmul (kernelWeight s.latch s.mem (ky * firSide s + kx)) (f32OfNat (lane (srcPix s.mem s.latch (ox + kx) (oy + ky)) c).toNat)
    simp only [Nat.div_add_mod'] at hgrid
    simp only [firProducts, windowSide_conv, Nat.add_sub_cancel]
    exact hgrid
  rw [hproducts, fsum, List.foldl_map, firSum]

/-- Settles O23: the stored grid, lane by lane. -/
theorem convOutput : Obligations.ConvOutput := by
  intro s hrun hmem
  obtain ⟨hcompleted, hdegen, hout⟩ := execCommand_grid (compute := firResult) hrun hmem rfl
  rw [outWidth_conv, outHeight_conv] at hout
  refine ⟨_, rfl, hcompleted, hdegen, fun ox oy hox hoy => ?_⟩
  rw [hout ox oy hox hoy, firPixel]
  refine ⟨fun c hc => ?_, byteThree_pack _ _ _⟩
  rw [lane_pack (firLane s.latch s.mem ox oy) hc, firLane, fsum_firProducts]

/-! ### The identity kernel -/

/-- The 3×3 identity kernel picks the lane of the centre pixel (41_fir.md R138). -/
theorem firSum_identity {s : State} (hside : firSide s = 3)
    (hkernel : ∀ i < 9, s.mem.readWord (s.latch.kerAddr.toNat + 4 * i) = if i = 4 then 0x3F800000 else 0x00000000)
    (ox oy c : Nat) : firSum s ox oy c = f32OfNat (lane (source s (ox + 1) (oy + 1)) c).toNat := by
  have hlane (w : Word) : NonnegF32 (f32OfNat (lane w c).toNat) :=
    nonnegF32_f32OfNat ((lane w c).isLt.le.trans (by decide))
  have hterm : ∀ i < 9, fmul (s.mem.readWord (s.latch.kerAddr.toNat + 4 * i))
      (f32OfNat (lane (source s (ox + i % 3) (oy + i / 3)) c).toNat) =
        if i = 4 then f32OfNat (lane (source s (ox + 1) (oy + 1)) c).toNat else 0 := by
    intro i hi
    rw [hkernel i hi]
    split_ifs with hcentre
    · subst hcentre
      exact fmul_one_left (hlane _).1
    · exact fmul_zero_left (hlane _)
  rw [firSum, hside]
  refine Eq.trans (List.foldl_ext _ _ _ fun acc i hi => ?_) (sum_single_term (hlane _) 4 9)
  rw [hterm i (List.mem_range.mp hi)]

/-- Settles O33: with the identity kernel the sum of each lane is that lane of the centre, which saturation keeps. -/
theorem identityKernelKeepsInterior : Obligations.IdentityKernelKeepsInterior := by
  intro s hrun hmem hlen hkernel
  have hside : firSide s = 3 := by
    rw [firSide, hlen]
    exact Nat.sqrt_eq 3
  obtain ⟨t, hexec, -, -, hout⟩ := convOutput s hrun hmem
  rw [hside] at hout
  refine ⟨t, hexec, fun ox oy hox hoy => ?_⟩
  obtain ⟨hlanes, hbyte⟩ := hout ox oy hox hoy
  refine eq_masked_of_lanes (fun c hc => (hlanes c hc).trans ?_) hbyte
  rw [firSum_identity hside hkernel, satU8_f32OfNat]

end Sys2Proof.Machine
end

section
/-! SUPPORT. Sorted keys by their ranks (42_order_stat.md R147): the element at a position of the sorted sequence, the first and the last. -/

namespace Sys2Proof.Machine

open Sys2Proof.Reference

@[simp] theorem length_sortKeys (ks : List Nat) : (sortKeys ks).length = ks.length := List.length_insertionSort _ ks

theorem perm_sortKeys (ks : List Nat) : (sortKeys ks).Perm ks := List.perm_insertionSort _ ks

theorem pairwise_sortKeys (ks : List Nat) : (sortKeys ks).Pairwise (· ≤ ·) := List.pairwise_insertionSort _ ks

/-- A permutation has the same ranks. -/
theorem isRank_perm {ks ls : List Nat} {n k : Nat} (h : IsRank ks n k) (hperm : ks.Perm ls) : IsRank ls n k := by
  obtain ⟨hmem, hbelow, hupto⟩ := h
  rw [hperm.countP_eq] at hbelow hupto
  exact ⟨hperm.mem_iff.mp hmem, hbelow, hupto⟩

/-- In a sorted list the smaller elements stand before position n, and everything up to it is not larger. -/
theorem isRank_getElem_of_pairwise {ks : List Nat} (hsorted : ks.Pairwise (· ≤ ·)) {n : Nat} (hn : n < ks.length) :
    IsRank ks n ks[n] := by
  have hle {i j : Nat} (hij : i ≤ j) (hj : j < ks.length) : ks[i] ≤ ks[j] :=
    hsorted.rel_get_of_le (a := ⟨i, by omega⟩) (b := ⟨j, hj⟩) hij
  have hdrop : (ks.drop n).countP (fun j => j < ks[n]) = 0 := by
    refine List.countP_eq_zero.mpr fun k hk => ?_
    obtain ⟨i, hi, rfl⟩ := List.mem_iff_getElem.mp hk
    simpa using hle (Nat.le_add_right n i) (by rw [List.length_drop] at hi; omega)
  have htake : (ks.take (n + 1)).countP (fun j => j ≤ ks[n]) = (ks.take (n + 1)).length := by
    refine List.countP_eq_length.mpr fun k hk => ?_
    obtain ⟨i, hi, rfl⟩ := List.mem_iff_getElem.mp hk
    simpa using hle (by rw [List.length_take] at hi; omega) hn
  refine ⟨List.getElem_mem hn, ?_, ?_⟩
  · calc ks.countP (fun j => j < ks[n])
        = (ks.take n ++ ks.drop n).countP (fun j => j < ks[n]) := by rw [List.take_append_drop]
      _ = (ks.take n).countP (fun j => j < ks[n]) := by rw [List.countP_append, hdrop, Nat.add_zero]
      _ ≤ (ks.take n).length := List.countP_le_length
      _ ≤ n := List.length_take_le n ks
  · calc n < (ks.take (n + 1)).length := by rw [List.length_take]; omega
      _ = (ks.take (n + 1)).countP (fun j => j ≤ ks[n]) := htake.symm
      _ ≤ ks.countP (fun j => j ≤ ks[n]) := (List.take_sublist _ _).countP_le

/-- Position n of the sorted keys has rank n. -/
theorem isRank_sortKeys {ks : List Nat} {n : Nat} (hn : n < ks.length) : IsRank ks n ((sortKeys ks).getD n 0) := by
  have hn' : n < (sortKeys ks).length := by simpa using hn
  rw [List.getD_eq_getElem _ _ hn']
  exact isRank_perm (isRank_getElem_of_pairwise (pairwise_sortKeys ks) hn') (perm_sortKeys ks)

/-- The key of rank 0 is the smallest. -/
theorem least_of_isRank_zero {ks : List Nat} {k : Nat} (h : IsRank ks 0 k) : k ∈ ks ∧ ∀ j ∈ ks, k ≤ j := by
  obtain ⟨hmem, hbelow, -⟩ := h
  refine ⟨hmem, ?_⟩
  simpa using List.countP_eq_zero.mp (Nat.le_zero.mp hbelow)

/-- The key of the last rank is the largest. -/
theorem greatest_of_isRank_last {ks : List Nat} {k : Nat} (h : IsRank ks (ks.length - 1) k) : k ∈ ks ∧ ∀ j ∈ ks, j ≤ k := by
  obtain ⟨hmem, -, hupto⟩ := h
  have hall : ks.countP (fun j => j ≤ k) = ks.length := Nat.le_antisymm List.countP_le_length (by omega)
  refine ⟨hmem, ?_⟩
  simpa using List.countP_eq_length.mp hall

end Sys2Proof.Machine
end

section
/-! The statements about the order statistics (42_order_stat.md): the window and its geometry, MEDIAN, MIN and MAX as ranks, MIDPOINT by
lanes, and distance 0. -/

namespace Sys2Proof.Machine

open Sys2Proof.Reference

/-! ### The window and its geometry -/

section
variable {op : Op} (hop : op ∈ [Op.median, Op.min, Op.max, Op.midpoint]) (s : State)
include hop

theorem windowSide_orderStat : windowSide op s.latch = orderSide s := by
  simp only [List.mem_cons, List.not_mem_nil, or_false] at hop
  obtain rfl | rfl | rfl | rfl := hop <;> rfl

theorem border_orderStat : border op s.latch = s.latch.dist.toNat := by
  rw [border, windowSide_orderStat hop s, orderSide, half_orderSide]

theorem outWidth_orderStat : outWidth op s.latch = W s - 2 * s.latch.dist.toNat := by
  rw [outWidth, border_orderStat hop s, W]

theorem outHeight_orderStat : outHeight op s.latch = H s - 2 * s.latch.dist.toNat := by
  rw [outHeight, border_orderStat hop s, H]

/-- The model's nested loops gather the window of the reference's one loop (42_order_stat.md R146). -/
theorem windowKeys_orderStat (ox oy : Nat) : windowKeys op s.latch s.mem ox oy = orderKeys s ox oy := by
  simp only [windowKeys, windowSide_orderStat hop s, Nat.add_sub_cancel]
  exact grid_eq_map_range (orderSide s) (orderSide s) fun kx ky => key (srcPix s.mem s.latch (ox + kx) (oy + ky))

end

/-- The shared loop of 42_order_stat.md R149: a running order statistic completes, and each output element is `select` of the sorted keys
of its window. -/
theorem execCommand_orderStat {op : Op} (hop : op ∈ [Op.median, Op.min, Op.max, Op.midpoint]) (select : List Nat → Word) {s : State}
    (hrun : Running op false s) (hmem : s.mem.wf = true) :
    Completed op false s (execCommand op false (orderResult op select) s) ∧
      (execCommand op false (orderResult op select) s).degen = false ∧
      ∀ ox oy, ox < W s - 2 * s.latch.dist.toNat → oy < H s - 2 * s.latch.dist.toNat →
        output s (execCommand op false (orderResult op select) s) (W s - 2 * s.latch.dist.toNat) ox oy =
          select (sortKeys (orderKeys s ox oy)) := by
  obtain ⟨hcompleted, hdegen, hout⟩ := execCommand_grid (compute := orderResult op select) hrun hmem rfl
  rw [outWidth_orderStat hop, outHeight_orderStat hop] at hout
  refine ⟨hcompleted, hdegen, fun ox oy hox hoy => ?_⟩
  rw [hout ox oy hox hoy, windowKeys_orderStat hop]

@[simp] theorem length_orderKeys (s : State) (ox oy : Nat) : (orderKeys s ox oy).length = orderSide s * orderSide s := by
  simp [orderKeys]

theorem orderArea_pos (s : State) : 0 < orderSide s * orderSide s := Nat.mul_pos (Nat.succ_pos _) (Nat.succ_pos _)

theorem key_lt (w : Word) : key w < 2 ^ 24 := Nat.mod_lt _ (by decide)

theorem lt_of_mem_orderKeys {s : State} {ox oy k : Nat} (hk : k ∈ orderKeys s ox oy) : k < 2 ^ 24 := by
  obtain ⟨i, -, rfl⟩ := List.mem_map.mp hk
  exact key_lt _

theorem toNat_keyWord {k : Nat} (hk : k < 2 ^ 24) : (keyWord k).toNat = k := by
  rw [keyWord, BitVec.toNat_ofNat]
  omega

/-! ### MEDIAN, MIN and MAX -/

/-- A command that selects position n of the sorted keys writes the key of rank n. -/
theorem execCommand_rank {op : Op} (hop : op ∈ [Op.median, Op.min, Op.max, Op.midpoint]) {select : List Nat → Word} {n : Nat}
    {s : State} (hselect : ∀ ks : List Nat, ks.length = orderSide s * orderSide s → select ks = keyWord (ks.getD n 0))
    (hn : n < orderSide s * orderSide s) (hrun : Running op false s) (hmem : s.mem.wf = true) :
    Completed op false s (execCommand op false (orderResult op select) s) ∧
      (execCommand op false (orderResult op select) s).degen = false ∧
      ∀ ox oy, ox < W s - 2 * s.latch.dist.toNat → oy < H s - 2 * s.latch.dist.toNat →
        IsRank (orderKeys s ox oy) n
          (output s (execCommand op false (orderResult op select) s) (W s - 2 * s.latch.dist.toNat) ox oy).toNat := by
  obtain ⟨hcompleted, hdegen, hout⟩ := execCommand_orderStat hop select hrun hmem
  refine ⟨hcompleted, hdegen, fun ox oy hox hoy => ?_⟩
  have hrank : IsRank (orderKeys s ox oy) n ((sortKeys (orderKeys s ox oy)).getD n 0) := isRank_sortKeys (by simpa using hn)
  rwa [hout ox oy hox hoy, hselect _ (by simp), toNat_keyWord (lt_of_mem_orderKeys hrank.1)]

/-- Settles O24: MEDIAN writes the key of rank `area / 2`. -/
theorem medianOutput : Obligations.MedianOutput := by
  intro s hrun hmem
  exact ⟨_, rfl, execCommand_rank (by decide) (fun ks hlen => by rw [selectMedian, hlen])
    (Nat.div_lt_self (orderArea_pos s) (by decide)) hrun hmem⟩

/-- Settles O25: MIN writes the key of rank 0, MAX the key of rank `area - 1`. -/
theorem minMaxOutput : Obligations.MinMaxOutput := by
  constructor
  · intro s hrun hmem
    obtain ⟨hcompleted, hdegen, hout⟩ :=
      execCommand_rank (op := .min) (by decide) (select := selectMin) (fun _ _ => rfl) (orderArea_pos s) hrun hmem
    exact ⟨_, rfl, hcompleted, hdegen, fun ox oy hox hoy => least_of_isRank_zero (hout ox oy hox hoy)⟩
  · intro s hrun hmem
    obtain ⟨hcompleted, hdegen, hout⟩ := execCommand_rank (op := .max) (by decide) (select := selectMax)
      (fun ks hlen => by rw [selectMax, hlen]) (Nat.sub_lt (orderArea_pos s) Nat.one_pos) hrun hmem
    refine ⟨_, rfl, hcompleted, hdegen, fun ox oy hox hoy => ?_⟩
    rw [← length_orderKeys s ox oy] at hout
    exact greatest_of_isRank_last (hout ox oy hox hoy)

/-! ### MIDPOINT -/

theorem toNat_midByte (a b : Byte) : (midByte a b).toNat = (a.toNat + b.toNat + 1) / 2 := by
  have ha := a.isLt
  have hb := b.isLt
  rw [midByte, BitVec.toNat_ofNat]
  omega

theorem midByte_self (a : Byte) : midByte a a = a := by
  refine BitVec.eq_of_toNat_eq ?_
  rw [toNat_midByte]
  omega

theorem toNat_lane (w : Word) (c : Nat) : (lane w c).toNat = w.toNat / 2 ^ (8 * c) % 256 := by
  rw [lane, BitVec.extractLsb'_toNat, Nat.shiftRight_eq_div_pow]

theorem lane_selectMidpoint (ks : List Nat) {c : Nat} (hc : c < 3) :
    lane (selectMidpoint ks) c = midByte (lane (keyWord (ks.getD 0 0)) c) (lane (keyWord (ks.getD (ks.length - 1) 0)) c) :=
  lane_pack (fun c => midByte (lane (keyWord (ks.getD 0 0)) c) (lane (keyWord (ks.getD (ks.length - 1) 0)) c)) hc

theorem byteThree_selectMidpoint (ks : List Nat) : (selectMidpoint ks).extractLsb' 24 8 = 0 := byteThree_pack _ _ _

/-- Settles O26: the averaged keys are those of rank 0 and of rank `area - 1`. -/
theorem midpointOutput : Obligations.MidpointOutput := by
  intro s hrun hmem
  obtain ⟨hcompleted, hdegen, hout⟩ := execCommand_orderStat (op := .midpoint) (by decide) selectMidpoint hrun hmem
  refine ⟨_, rfl, hcompleted, hdegen, fun ox oy hox hoy => ?_⟩
  have hpos : 0 < (orderKeys s ox oy).length := by simpa using orderArea_pos s
  obtain ⟨hlo, hleast⟩ := least_of_isRank_zero (isRank_sortKeys hpos)
  obtain ⟨hhi, hgreatest⟩ := greatest_of_isRank_last (isRank_sortKeys (Nat.sub_lt hpos Nat.one_pos))
  refine ⟨_, hlo, _, hhi, fun k hk => ⟨hleast k hk, hgreatest k hk⟩, ?_⟩
  rw [hout ox oy hox hoy]
  refine ⟨fun c hc => ?_, byteThree_selectMidpoint _⟩
  rw [lane_selectMidpoint _ hc, length_sortKeys, toNat_midByte, toNat_lane, toNat_lane,
    toNat_keyWord (lt_of_mem_orderKeys hlo), toNat_keyWord (lt_of_mem_orderKeys hhi)]

/-! ### Distance 0 -/

/-- The key of a pixel as a word is the pixel with byte 3 cleared (00_scope.md R21). -/
theorem keyWord_key (w : Word) : keyWord (key w) = w &&& 0x00FFFFFF := by
  refine BitVec.eq_of_toNat_eq ?_
  rw [toNat_keyWord (key_lt w), key, BitVec.toNat_and]
  exact (Nat.and_two_pow_sub_one_eq_mod _ 24).symm

theorem selectMidpoint_singleton (w : Word) : selectMidpoint [key w] = w &&& 0x00FFFFFF := by
  have hlanes : ∀ c < 3, lane (selectMidpoint [key w]) c = lane (keyWord (key w)) c := fun c hc =>
    (lane_selectMidpoint [key w] hc).trans (midByte_self _)
  rw [eq_masked_of_lanes hlanes (byteThree_selectMidpoint _), keyWord_key, BitVec.and_assoc, BitVec.and_self]

/-- Of a window of one pixel every order statistic selects that pixel with byte 3 cleared. -/
theorem exec_orderStat_singleton {i : Instr} {op : Op} (h : commandOp i = some (op, false))
    (hop : op ∈ [Op.median, Op.min, Op.max, Op.midpoint]) :
    ∃ select, (∀ s, exec i s = .next (execCommand op false (orderResult op select) s)) ∧
      ∀ w, select [key w] = w &&& 0x00FFFFFF := by
  cases i <;> cases h
  case median => exact ⟨selectMedian, fun _ => rfl, fun w => by simp [selectMedian, keyWord_key]⟩
  case min => exact ⟨selectMin, fun _ => rfl, keyWord_key⟩
  case max => exact ⟨selectMax, fun _ => rfl, keyWord_key⟩
  case midpoint => exact ⟨selectMidpoint, fun _ => rfl, selectMidpoint_singleton⟩
  all_goals exact absurd hop (by decide)

theorem orderKeys_of_distance_zero {s : State} (hdist : s.latch.dist = 0) (x y : Nat) : orderKeys s x y = [key (source s x y)] := by
  have hside : orderSide s = 1 := by rw [orderSide, hdist]; rfl
  rw [orderKeys, hside]
  rfl

theorem Completed.outW {op : Op} {vis : Bool} {s t : State} (h : Completed op vis s t) :
    t.outW = BitVec.ofNat 32 (outWidth op s.latch) := congrArg State.outW h.1

theorem Completed.outH {op : Op} {vis : Bool} {s t : State} (h : Completed op vis s t) :
    t.outH = BitVec.ofNat 32 (outHeight op s.latch) := congrArg State.outH h.1

/-- Settles O34: the window is the pixel alone (42_order_stat.md R154). -/
theorem distanceZeroCopies : Obligations.DistanceZeroCopies := by
  intro i op s hcommand hop hrun hmem hdist
  obtain ⟨select, hexec, hcopy⟩ := exec_orderStat_singleton hcommand hop
  obtain ⟨hcompleted, -, hout⟩ := execCommand_orderStat hop select hrun hmem
  have hzero : 2 * s.latch.dist.toNat = 0 := by rw [hdist]; rfl
  have hwidth : outWidth op s.latch = s.latch.width.toNat := by rw [outWidth_orderStat hop, hzero]; rfl
  have hheight : outHeight op s.latch = s.latch.height.toNat := by rw [outHeight_orderStat hop, hzero]; rfl
  rw [hzero] at hout
  refine ⟨_, hexec s, ?_, ?_, fun x y hx hy => ?_⟩
  · rw [hcompleted.outW, hwidth, BitVec.ofNat_toNat, BitVec.setWidth_eq]
  · rw [hcompleted.outH, hheight, BitVec.ofNat_toNat, BitVec.setWidth_eq]
  · have hkeys : sortKeys (orderKeys s x y) = [key (source s x y)] := by rw [orderKeys_of_distance_zero hdist]; rfl
    exact (hout x y hx hy).trans (by rw [hkeys, hcopy])

end Sys2Proof.Machine
end

section
/-! The statement that the number of workers is not observable (43_dct.md R171, R175). -/

namespace Sys2Proof.Machine

/-- The configuration with another number of workers. -/
def Config.withWorkers (c : Config) (p : BitVec 8) : Config := { c with numWorkers := p }

/-- The state with another number of workers. -/
def State.withWorkers (s : State) (p : BitVec 8) : State := { s with cfg := Config.withWorkers s.cfg p }

section

variable (s : State) (p q : BitVec 8)

@[simp] theorem State.withWorkers_cfg : (s.withWorkers p).cfg = Config.withWorkers s.cfg p := rfl

@[simp] theorem State.withWorkers_latch : (s.withWorkers p).latch = s.latch := rfl

@[simp] theorem State.withWorkers_seq : (s.withWorkers p).seq = s.seq := rfl

@[simp] theorem State.withWorkers_mem : (s.withWorkers p).mem = s.mem := rfl

@[simp] theorem State.withWorkers_torn : (s.withWorkers p).torn = s.torn := rfl

@[simp] theorem State.withWorkers_withWorkers : (s.withWorkers p).withWorkers q = s.withWorkers q := rfl

@[simp] theorem validateOperands_withWorkers (c : Config) (op : Op) (vis : Bool) (l : Params) :
    validateOperands (Config.withWorkers c p) op vis l = validateOperands c op vis l := rfl

@[simp] theorem allAdmitted_withWorkers (c : Config) (op : Op) (vis : Bool) (l : Params) :
    allAdmitted (Config.withWorkers c p) op vis l = allAdmitted c op vis l := rfl

theorem completeError_withWorkers (e : CmdError) : completeError e (s.withWorkers p) = (completeError e s).withWorkers p := rfl

theorem scrambleOutputs_withWorkers (op : Op) (vis : Bool) :
    scrambleOutputs op vis (s.withWorkers p) = (scrambleOutputs op vis s).withWorkers p := rfl

theorem storeTorn_withWorkers (op : Op) (vis : Bool) : storeTorn op vis (s.withWorkers p) = (storeTorn op vis s).withWorkers p := rfl

theorem storeResult_withWorkers (op : Op) (r : Result) :
    storeResult op r (s.withWorkers p) = (storeResult op r s).withWorkers p := rfl

/-- EXEC passes a change of the number of workers on where its computation does not depend on it. -/
theorem execCommand_withWorkers (op : Op) (vis : Bool) {compute : Config → Params → Memory → Result}
    (hcompute : compute (Config.withWorkers s.cfg p) s.latch s.mem = compute s.cfg s.latch s.mem) :
    execCommand op vis compute (s.withWorkers p) = (execCommand op vis compute s).withWorkers p := by
  rcases execCommand_cases op vis compute s with
    ⟨hidle, h⟩ | ⟨e, hbusy, hinvalid, h⟩ | ⟨hbusy, hvalid, hdenied, h⟩ | ⟨hbusy, hvalid, hadmitted, htorn, h⟩ |
    ⟨hrun, h⟩
  · rw [h]
    simp [execCommand, hidle]
  · rw [h]
    simp [execCommand, hbusy, hinvalid, completeError_withWorkers]
  · rw [h]
    simp [execCommand, hbusy, hvalid, hdenied, completeError_withWorkers, scrambleOutputs_withWorkers]
  · rw [h]
    simp [execCommand, hbusy, hvalid, hadmitted, htorn, storeTorn_withWorkers]
  · have hrun' : Running op vis (s.withWorkers p) := ⟨hrun.busy, hrun.valid, hrun.admitted, hrun.untorn⟩
    rw [h, execCommand_of_running hrun', ← storeResult_withWorkers, ← hcompute]
    rfl

end

/-- A pass of `p` workers and one of `q` compute the same lines. -/
theorem fanOut_workers {α : Type} {p q : BitVec 8} (hp : p ≠ 0) (hq : q ≠ 0) (r : Nat) (line : Nat → α) :
    fanOut p.toNat r line = fanOut q.toNat r line := by
  have hpos {n : BitVec 8} (hn : n ≠ 0) : 0 < n.toNat := Nat.pos_of_ne_zero fun h => hn (BitVec.eq_of_toNat_eq h)
  rw [fanOut_eq (hpos hp), fanOut_eq (hpos hq)]

/-- Only the transforms use the workers, and no pass depends on their number. -/
theorem exec_command_withWorkers {i : Instr} {op : Op} {vis : Bool} (h : commandOp i = some (op, vis)) :
    ∃ compute, (∀ s, exec i s = .next (execCommand op vis compute s)) ∧
      ∀ (c : Config) (l : Params) (m : Memory) {q : BitVec 8}, c.numWorkers ≠ 0 → q ≠ 0 →
        compute (Config.withWorkers c q) l m = compute c l m := by
  cases i <;> cases h
  case dct | dctVis =>
    refine ⟨_, fun _ => rfl, fun c l m q hc hq => ?_⟩
    simp only [dctResult, spectrum, dctCols, dctRows, fanOut_workers hc hq]
    rfl
  case idct =>
    refine ⟨_, fun _ => rfl, fun c l m q hc hq => ?_⟩
    simp only [idctResult, idctCols, idctRows, fanOut_workers hc hq]
    rfl
  all_goals exact ⟨_, fun _ => rfl, fun _ _ _ _ _ _ => rfl⟩

/-- Settles O41: the change of the number of workers passes through EXEC. -/
theorem workersUnobservable : Obligations.WorkersUnobservable := by
  rintro i s t p q ⟨op, vis, hcommand⟩ hp hq hexec
  obtain ⟨compute, hcompute, hworkers⟩ := exec_command_withWorkers hcommand
  have hstep := execCommand_withWorkers (s.withWorkers p) q op vis (hworkers (Config.withWorkers s.cfg p) s.latch s.mem hp hq)
  change exec i (s.withWorkers p) = .next t at hexec
  change exec i (s.withWorkers q) = .next (t.withWorkers q)
  rw [hcompute] at hexec ⊢
  obtain rfl := Host.Outcome.next.inj hexec
  rw [← hstep, State.withWorkers_withWorkers]

end Sys2Proof.Machine
end

section
/-! The statements about the outputs of the transforms (43_dct.md R163 to R167). -/

namespace Sys2Proof.Machine

open Sys2Proof.Reference

/-! ### Tables, lines and sums -/

/-- The table holds every index of the cosines (43_dct.md R161). -/
theorem cosineAt_twiddleTable {N : Nat} (hN : 0 < N) (k n : Nat) : cosineAt (twiddleTable N) N k n = C N k n := by
  have hindex : ((2 * n + 1) * k) % (4 * N) < 4 * N := Nat.mod_lt _ (by omega)
  rw [cosineAt, twiddleTable, List.getD_eq_getElem _ _ (by simpa using hindex), List.getElem_map, List.getElem_range, C]

theorem lineAt_lines {rows cols y x : Nat} (f : Nat → Nat → F32) (hy : y < rows) (hx : x < cols) :
    lineAt ((List.range rows).map fun y => (List.range cols).map (f y)) y x = f y x := by
  simp [lineAt, hy, hx]

/-- The sum over a run of indices as a loop, its terms rewritten one by one. -/
theorem fsum_range_eq {n : Nat} {f g : Nat → F32} (h : ∀ i < n, f i = g i) :
    fsum ((List.range n).map f) = (List.range n).foldl (fun acc i => fadd acc (g i)) 0x00000000 := by
  rw [List.map_congr_left fun i hi => h i (List.mem_range.mp hi), fsum, List.foldl_map]

theorem map_grid {α β : Type} (cols rows : Nat) (f : Nat → Nat → α) (g : α → β) :
    (grid cols rows f).map g = grid cols rows fun x y => g (f x y) := by
  simp [grid, List.map_flatMap, Function.comp_def]

/-- 0x40400000 is 3.0. -/
theorem dctSample_eq_sample (w : Word) : dctSample w = sample w := by
  rw [dctSample, sample, show f32OfNat 3 = 0x40400000 by decide]

/-! ### The forward transform -/

theorem lineAt_dctSamples {s : State} {x y : Nat} (hx : x < W s) (hy : y < H s) :
    lineAt (dctSamples s.latch s.mem) y x = sample (source s x y) :=
  (lineAt_lines (fun y x => dctSample (srcPix s.mem s.latch x y)) hy hx).trans (dctSample_eq_sample _)

theorem lineAt_idctInput {s : State} {u v : Nat} (hu : u < W s) (hv : v < H s) :
    lineAt (idctInput s.latch s.mem) v u = source s u v :=
  lineAt_lines (fun v u => srcPix s.mem s.latch u v) hv hu

section

variable {p : Nat} (hp : 0 < p) (s : State)

include hp

/-- Pass 1 computes `T` (43_dct.md R164). -/
theorem lineAt_dctRows {y u : Nat} (hy : y < H s) (hu : u < W s) :
    lineAt (dctRows p (W s) (H s) (dctSamples s.latch s.mem)) y u = dctT s y u := by
  have hterm : ∀ x < W s, fmul (lineAt (dctSamples s.latch s.mem) y x) (cosineAt (twiddleTable (W s)) (W s) u x) =
      fmul (sample (source s x y)) (C (W s) u x) := fun x hx => by
    rw [cosineAt_twiddleTable (Nat.zero_lt_of_lt hx), lineAt_dctSamples hx hy]
  rw [dctRows, fanOut_eq hp, lineAt_lines _ hy hu, fsum_range_eq hterm, dctT]

/-- Pass 2 computes `F`, in element order (43_dct.md R164, R165). -/
theorem flatten_dctCols :
    (dctCols p (W s) (H s) (dctRows p (W s) (H s) (dctSamples s.latch s.mem))).flatten =
      grid (W s) (H s) fun u v => dctF s v u := by
  rw [dctCols, flatten_fanOut_eq_grid hp]
  refine grid_congr fun u hu v _ => ?_
  have hterm : ∀ y < H s, fmul (lineAt (dctRows p (W s) (H s) (dctSamples s.latch s.mem)) y u)
      (cosineAt (twiddleTable (H s)) (H s) v y) = fmul (dctT s y u) (C (H s) v y) := fun y hy => by
    rw [cosineAt_twiddleTable (Nat.zero_lt_of_lt hy), lineAt_dctRows hp s hy hu]
  rw [fsum_range_eq hterm, dctF]

/-! ### The inverse transform -/

/-- Pass 1 computes `S` (43_dct.md R166). -/
theorem lineAt_idctRows {v x : Nat} (hv : v < H s) (hx : x < W s) :
    lineAt (idctRows p (W s) (H s) (idctInput s.latch s.mem)) v x = idctS s v x := by
  have hterm : ∀ u < W s, fmul (fmul (scale (W s) u) (lineAt (idctInput s.latch s.mem) v u))
      (cosineAt (twiddleTable (W s)) (W s) u x) = fmul (fmul (scale (W s) u) (source s u v)) (C (W s) u x) := fun u hu => by
    rw [cosineAt_twiddleTable (Nat.zero_lt_of_lt hu), lineAt_idctInput hu hv]
  rw [idctRows, fanOut_eq hp, lineAt_lines _ hv hx, fsum_range_eq hterm, idctS]

/-- Pass 2 computes the samples (43_dct.md R166). -/
theorem flatten_idctCols :
    (idctCols p (W s) (H s) (idctRows p (W s) (H s) (idctInput s.latch s.mem))).flatten =
      grid (W s) (H s) fun x y => idctG s y x := by
  rw [idctCols, flatten_fanOut_eq_grid hp]
  refine grid_congr fun x hx y _ => ?_
  have hterm : ∀ v < H s, fmul (fmul (scale (H s) v) (lineAt (idctRows p (W s) (H s) (idctInput s.latch s.mem)) v x))
      (cosineAt (twiddleTable (H s)) (H s) v y) = fmul (fmul (scale (H s) v) (idctS s v x)) (C (H s) v y) := fun v hv => by
    rw [cosineAt_twiddleTable (Nat.zero_lt_of_lt hv), lineAt_idctRows hp s hv hx]
  rw [fsum_range_eq hterm, idctG]

end

/-! ### The commands -/

@[simp] theorem spectralResult_dst (vis : Bool) (dst : List Word) : (spectralResult vis dst).dst = dst := by cases vis <;> rfl

theorem exec_dct (vis : Bool) (s : State) :
    exec (if vis then .dctVis else .dct) s = .next (execCommand .dct vis (dctResult vis) s) := by cases vis <;> rfl

/-- Settles O27: the stored spectrum is the grid of `F`, with or without the visual words after it. -/
theorem dctOutput : Obligations.DctOutput := by
  intro vis s hrun hmem hcfg
  have hfits := dctResult_fits vis s.cfg s.latch s.mem
  rw [exec_dct, execCommand_of_running hrun]
  refine ⟨_, rfl, storeResult_completed s hfits.dst hfits.vis, fun hvis => ?_, fun u v hu hv => ?_⟩
  · rw [hvis]
    rfl
  · have hdst : (dctResult vis s.cfg s.latch s.mem).dst = grid (W s) (H s) fun u v => dctF s v u :=
      (spectralResult_dst vis _).trans (flatten_dctCols (numWorkers_pos_of_wf hcfg) s)
    have hi : v * W s + u < (dctResult vis s.cfg s.latch s.mem).dst.length := by
      rw [hdst, length_grid]
      exact grid_index_lt hu hv
    refine (readWord_dst_of_valid hrun.valid hmem hfits.dst hfits.vis hi).trans ?_
    simp only [hdst, getElem_grid _ hu hv]

theorem outWidth_idct (s : State) : outWidth .idct s.latch = W s := by simp [outWidth, border, windowSide, W]

theorem outHeight_idct (s : State) : outHeight .idct s.latch = H s := by simp [outHeight, border, windowSide, H]

theorem idctResult_eq_grid {s : State} (hcfg : s.cfg.wf = true) :
    idctResult s.cfg s.latch s.mem =
      ⟨grid (outWidth .idct s.latch) (outHeight .idct s.latch) fun x y => gray (satU8 (idctG s y x)), [], false⟩ := by
  rw [outWidth_idct, outHeight_idct]
  have hdst := congrArg (List.map fun g => gray (satU8 g)) (flatten_idctCols (numWorkers_pos_of_wf hcfg) s)
  rw [map_grid] at hdst
  exact congrArg (Result.mk · [] false) hdst

/-- Settles O28: the stored grid of the samples, each converted. -/
theorem idctOutput : Obligations.IdctOutput := by
  intro s hrun hmem hcfg
  obtain ⟨hcompleted, hdegen, hout⟩ := execCommand_grid (compute := idctResult) hrun hmem (idctResult_eq_grid hcfg)
  rw [outWidth_idct, outHeight_idct] at hout
  exact ⟨_, rfl, hcompleted, hdegen, hout⟩

end Sys2Proof.Machine
end

section
/-! SUPPORT. Real values that round like a rational: values between two rationals that round alike, and values with no rounding boundary
between them and a rational (00_scope.md R15, R17). -/

namespace Sys2Proof.Machine

open Sys2Proof.Reference

/-! ### Nearest bits by rounding boundaries -/

/-- The greater of two values is as near to `x` exactly where `x` is at least halfway up. -/
theorem abs_sub_upper_le_iff {p q x : ℝ} (h : p < q) : |q - x| ≤ |p - x| ↔ p + q ≤ 2 * x := by
  rw [← sq_le_sq, ← sub_nonneg, show (p - x) ^ 2 - (q - x) ^ 2 = (q - p) * (2 * x - (p + q)) by ring,
    mul_nonneg_iff_of_pos_left (sub_pos.mpr h), sub_nonneg]

/-- The smaller of two values is as near to `x` exactly where `x` is at most halfway up. -/
theorem abs_sub_lower_le_iff {p q x : ℝ} (h : p < q) : |p - x| ≤ |q - x| ↔ 2 * x ≤ p + q := by
  rw [← sq_le_sq, ← sub_nonneg, show (q - x) ^ 2 - (p - x) ^ 2 = (q - p) * (p + q - 2 * x) by ring,
    mul_nonneg_iff_of_pos_left (sub_pos.mpr h), sub_nonneg]

/-- Bits are nearest to `x` exactly where `x` lies on their side of halfway to every lower and to every higher magnitude. -/
theorem nearestBits_iff {x : ℝ} {r : Nat} :
    NearestBits x r ↔
      (∀ b < r, (bitsMag b : ℝ) + bitsMag r ≤ 2 * x ∧ ((bitsMag b : ℝ) + bitsMag r = 2 * x → r % 2 = 0)) ∧
      (∀ b > r, 2 * x ≤ (bitsMag r : ℝ) + bitsMag b ∧ (2 * x = (bitsMag r : ℝ) + bitsMag b → r % 2 = 0)) := by
  have hlt {a b : Nat} (h : a < b) : (bitsMag a : ℝ) < bitsMag b := by exact_mod_cast bitsMag_strictMono h
  constructor
  · refine fun h => ⟨fun b hb => ?_, fun b hb => ?_⟩
    · obtain ⟨hnear, htie⟩ := h b
      have hle := (abs_sub_upper_le_iff (hlt hb)).mp hnear
      exact ⟨hle, fun heq => htie (hnear.antisymm ((abs_sub_lower_le_iff (hlt hb)).mpr heq.ge)) (bitsMag_strictMono hb).ne⟩
    · obtain ⟨hnear, htie⟩ := h b
      have hle := (abs_sub_lower_le_iff (hlt hb)).mp hnear
      exact ⟨hle, fun heq => htie (hnear.antisymm ((abs_sub_upper_le_iff (hlt hb)).mpr heq.ge)) (bitsMag_strictMono hb).ne'⟩
  · rintro ⟨hlower, hhigher⟩ b
    rcases lt_trichotomy b r with hb | rfl | hb
    · obtain ⟨hle, htie⟩ := hlower b hb
      refine ⟨(abs_sub_upper_le_iff (hlt hb)).mpr hle, fun heq _ => htie ?_⟩
      exact hle.antisymm ((abs_sub_lower_le_iff (hlt hb)).mp heq.ge)
    · exact ⟨le_rfl, fun _ hne => absurd rfl hne⟩
    · obtain ⟨hle, htie⟩ := hhigher b hb
      refine ⟨(abs_sub_lower_le_iff (hlt hb)).mpr hle, fun heq _ => htie ?_⟩
      exact hle.antisymm ((abs_sub_upper_le_iff (hlt hb)).mp heq.ge)

/-- A value between two values nearest to the same bits is nearest to them. -/
theorem NearestBits.of_between {lo x hi : ℝ} {r : Nat} (hlo : NearestBits lo r) (hhi : NearestBits hi r) (hlx : lo ≤ x)
    (hxh : x ≤ hi) : NearestBits x r := by
  obtain ⟨hlower, -⟩ := nearestBits_iff.mp hlo
  obtain ⟨-, hhigher⟩ := nearestBits_iff.mp hhi
  refine nearestBits_iff.mpr ⟨fun b hb => ?_, fun b hb => ?_⟩
  · obtain ⟨hle, htie⟩ := hlower b hb
    exact ⟨by linarith, fun heq => htie (by linarith)⟩
  · obtain ⟨hle, htie⟩ := hhigher b hb
    exact ⟨by linarith, fun heq => htie (by linarith)⟩

/-- Two values strictly on the same side of every boundary halfway between neighbours are nearest to the same bits. -/
theorem NearestBits.of_same_side {x y : ℝ} {r : Nat} (h : NearestBits y r)
    (hside : ∀ m, (2 * x < (bitsMag m : ℝ) + bitsMag (m + 1) ∧ 2 * y < (bitsMag m : ℝ) + bitsMag (m + 1)) ∨
      ((bitsMag m : ℝ) + bitsMag (m + 1) < 2 * x ∧ (bitsMag m : ℝ) + bitsMag (m + 1) < 2 * y)) : NearestBits x r := by
  have hmono {a b : Nat} (h : a ≤ b) : (bitsMag a : ℝ) ≤ bitsMag b := by exact_mod_cast bitsMag_strictMono.monotone h
  obtain ⟨hlower, hhigher⟩ := nearestBits_iff.mp h
  refine nearestBits_iff.mpr ⟨fun b hb => ?_, fun b hb => ?_⟩
  · obtain ⟨m, rfl⟩ := Nat.exists_eq_add_one_of_ne_zero (Nat.ne_zero_of_lt hb)
    have hx : (bitsMag m : ℝ) + bitsMag (m + 1) < 2 * x :=
      ((hside m).resolve_left fun hm => absurd (hlower m m.lt_succ_self).1 (not_le.mpr hm.2)).1
    have hbm := hmono (Nat.le_of_lt_succ hb)
    exact ⟨by linarith, fun heq => by linarith⟩
  · have hx : 2 * x < (bitsMag r : ℝ) + bitsMag (r + 1) :=
      ((hside r).resolve_right fun hr => absurd (hhigher (r + 1) r.lt_succ_self).1 (not_le.mpr hr.2)).1
    have hrb := hmono (Nat.succ_le_of_lt hb)
    exact ⟨by linarith, fun heq => by linarith⟩

/-! ### Ratios -/

/-- A ratio up to 2 is encoded by its nearest bits, which are finite. -/
theorem exists_nearestBits_f32OfRatio {n d : Nat} (hd : 0 < d) (hle : n ≤ 2 * d) :
    ∃ r < 0x7F800000, f32OfRatio n d = f32Pack false r ∧ NearestBits ((n : ℝ) / d * 2 ^ 149) r := by
  obtain ⟨r, hr, hnear⟩ := exists_nearestBits_roundMag (n * 2 ^ 149) hd
  have hvalue : ((n * 2 ^ 149 : ℕ) : ℝ) / d = n / d * 2 ^ 149 := by push_cast; ring
  rw [hvalue] at hnear
  have hratio : (n : ℝ) / d ≤ 2 := (div_le_iff₀ (by exact_mod_cast hd)).mpr (by exact_mod_cast hle)
  have hfin : r ≤ 0x7F7FFFFF := hnear.le_of_lt_half (by
    rw [← overflow_bound]
    have : (0 : ℝ) < 2 ^ 149 := by positivity
    nlinarith)
  exact ⟨r, by omega, by rw [f32OfRatio, hr, Nat.min_eq_left (by omega)], hnear⟩

theorem finiteF32_f32OfRatio {n d : Nat} (hd : 0 < d) (hle : n ≤ 2 * d) : FiniteF32 (f32OfRatio n d) := by
  obtain ⟨r, hr, heq, -⟩ := exists_nearestBits_f32OfRatio hd hle
  rw [heq, finiteF32_iff, f32Bits_f32Pack _ (by omega)]
  exact hr

theorem roundsTo_of_nearestBits {x : ℝ} {r : Nat} (hx : 0 ≤ x) (h : NearestBits (x * 2 ^ 149) r) (hr : r < 0x7F800000) :
    RoundsTo x (f32Pack false r) := by
  have hround := roundsTo_f32Pack false (mul_nonneg hx (by positivity)) h hr
  rwa [signFactor, if_neg Bool.false_ne_true, Int.cast_one, one_mul, mul_div_cancel_right₀ _ (by positivity)] at hround

/-- The ratio is its own rounding. -/
theorem roundsTo_f32OfRatio {n d : Nat} (hd : 0 < d) (hle : n ≤ 2 * d) : RoundsTo ((n : ℝ) / d) (f32OfRatio n d) := by
  obtain ⟨r, hr, heq, hnear⟩ := exists_nearestBits_f32OfRatio hd hle
  rw [heq]
  exact roundsTo_of_nearestBits (by positivity) hnear hr

/-- A value between two ratios of one encoding rounds to it. -/
theorem roundsTo_of_between_ratios {x : ℝ} {n d n' d' : Nat} (hd : 0 < d) (hle : n ≤ 2 * d) (hd' : 0 < d') (hle' : n' ≤ 2 * d')
    (heq : f32OfRatio n d = f32OfRatio n' d') (hlo : (n : ℝ) / d ≤ x) (hhi : x ≤ (n' : ℝ) / d') :
    RoundsTo x (f32OfRatio n d) := by
  obtain ⟨r, hr, hlow, hnear⟩ := exists_nearestBits_f32OfRatio hd hle
  obtain ⟨r', hr', hhigh, hnear'⟩ := exists_nearestBits_f32OfRatio hd' hle'
  have hbits : r = r' := by
    have := congrArg f32Bits (hlow.symm.trans (heq.trans hhigh))
    rwa [f32Bits_f32Pack _ (by omega), f32Bits_f32Pack _ (by omega)] at this
  subst hbits
  rw [hlow]
  refine roundsTo_of_nearestBits (hlo.trans' (by positivity)) (hnear.of_between hnear' ?_ ?_) hr
  · exact mul_le_mul_of_nonneg_right hlo (by positivity)
  · exact mul_le_mul_of_nonneg_right hhi (by positivity)

/-! ### Values in a cell of 2^-64 -/

/-- From 2^-40 on every magnitude is a multiple of 2^-63. -/
theorem two_pow_dvd_bitsMag {b : Nat} (hb : 87 * 2 ^ 23 ≤ b) : 2 ^ 86 ∣ bitsMag b := by
  rw [bitsMag, if_neg (by omega)]
  exact Dvd.dvd.mul_left (Nat.pow_dvd_pow 2 (by omega)) _

/-- Between neighbouring multiples of 2^-64, from 2^-40 on, there is no rounding boundary. -/
theorem halfway_outside_cell {k : Nat} (hk : 2 ^ 24 ≤ k) (m : Nat) :
    bitsMag m + bitsMag (m + 1) ≤ k * 2 ^ 86 ∨ (k + 1) * 2 ^ 86 ≤ bitsMag m + bitsMag (m + 1) := by
  by_cases hm : 87 * 2 ^ 23 ≤ m
  · obtain ⟨c, hc⟩ := Nat.dvd_add (two_pow_dvd_bitsMag hm) (two_pow_dvd_bitsMag (hm.trans (Nat.le_add_right m 1)))
    omega
  · have hcell : bitsMag (86 * 2 ^ 23 + 2 ^ 23) = 2 ^ 23 * 2 ^ 86 := bitsMag_quantum (.inr le_rfl) (by decide)
    have hle := bitsMag_strictMono.monotone (show m ≤ 86 * 2 ^ 23 + 2 ^ 23 by omega)
    have hle' := bitsMag_strictMono.monotone (show m + 1 ≤ 86 * 2 ^ 23 + 2 ^ 23 by omega)
    rw [hcell] at hle hle'
    omega

/-- A value strictly between neighbouring multiples of 2^-64 rounds like the point halfway between them. -/
theorem roundsTo_of_mem_cell {x : ℝ} {k : Nat} (hk : 2 ^ 24 ≤ k) (hk' : k < 2 ^ 65) (hlo : (k : ℝ) < x * 2 ^ 64)
    (hhi : x * 2 ^ 64 < k + 1) : RoundsTo x (f32OfRatio (2 * k + 1) (2 ^ 65)) := by
  obtain ⟨r, hr, heq, hnear⟩ := exists_nearestBits_f32OfRatio (n := 2 * k + 1) (d := 2 ^ 65) (by positivity) (by omega)
  rw [heq]
  refine roundsTo_of_nearestBits ?_ (hnear.of_same_side fun m => ?_) hr
  · have : (0 : ℝ) ≤ k := k.cast_nonneg
    linarith
  · have hbound := halfway_outside_cell hk m
    rw [← @Nat.cast_le ℝ, ← @Nat.cast_le ℝ] at hbound
    push_cast at hbound ⊢
    rcases hbound with h | h
    · right; constructor <;> linarith
    · left; constructor <;> linarith

end Sys2Proof.Machine
end

section
/-! The statement about the scale table (43_dct.md R161, 00_scope.md R17). -/

namespace Sys2Proof.Machine

open Sys2Proof.Reference

/-- The root of `sqrtRatio` to 64 fractional bits, from below. -/
theorem isqrt_ratio_bounds (num : Nat) {den : Nat} (hden : 0 < den) :
    isqrt (num * 2 ^ 128 / den) * isqrt (num * 2 ^ 128 / den) * den ≤ num * 2 ^ 128 ∧
      num * 2 ^ 128 < (isqrt (num * 2 ^ 128 / den) + 1) * (isqrt (num * 2 ^ 128 / den) + 1) * den := by
  rw [isqrt_eq_sqrt]
  exact ⟨(Nat.le_div_iff_mul_le hden).mp (Nat.sqrt_le _), (Nat.div_lt_iff_lt_mul hden).mp (Nat.lt_succ_sqrt _)⟩

/-- A root from 2^-8 to 2 is rounded once: exactly, or as any value of its cell of 2^-64. -/
theorem roundsTo_sqrtRatio {num den : Nat} (hden : 0 < den) (hlo : den ≤ 2 ^ 16 * num) (hhi : num ≤ 2 * den) :
    RoundsTo (Real.sqrt (num / den)) (sqrtRatio num den) := by
  obtain ⟨hk, hk'⟩ := isqrt_ratio_bounds num hden
  rw [sqrtRatio]
  generalize isqrt (num * 2 ^ 128 / den) = k at hk hk'
  have hden' : (0 : ℝ) < den := by exact_mod_cast hden
  have hlarge : 2 ^ 24 ≤ k := by
    by_contra hlt
    nlinarith
  have hsmall : k < 2 ^ 65 := by
    by_contra hge
    nlinarith
  split_ifs with hexact
  · have hroot : Real.sqrt (num / den) = (k : ℝ) / (2 ^ 64 : ℕ) := by
      rw [Real.sqrt_eq_iff_mul_self_eq (by positivity) (by positivity)]
      have : (k : ℝ) * k * den = num * 2 ^ 128 := by exact_mod_cast hexact
      field_simp
      push_cast
      linarith
    rw [hroot]
    exact roundsTo_f32OfRatio (by positivity) (by omega)
  · have hscale : Real.sqrt (num / den) * 2 ^ 64 = Real.sqrt (num * 2 ^ 128 / den) := by
      rw [show (num : ℝ) * 2 ^ 128 / den = num / den * (2 ^ 64) ^ 2 by ring, Real.sqrt_mul (by positivity),
        Real.sqrt_sq (by positivity)]
    refine roundsTo_of_mem_cell hlarge hsmall ?_ ?_
    · rw [hscale]
      refine Real.lt_sqrt_of_sq_lt ((lt_div_iff₀ hden').mpr ?_)
      rw [sq]
      exact_mod_cast lt_of_le_of_ne hk hexact
    · rw [hscale]
      refine (Real.sqrt_lt' (by positivity)).mpr ((div_lt_iff₀ hden').mpr ?_)
      rw [sq]
      exact_mod_cast hk'

theorem scale_zero (N : Nat) : scale N 0 = sqrtRatio 1 N := if_pos rfl

theorem scale_of_pos (N : Nat) {k : Nat} (hk : 0 < k) : scale N k = sqrtRatio 2 N := if_neg hk.ne'

/-- Settles O60: the two ratios lie between 2^-16 and 2. -/
theorem scaleIsRoundedRoot : Obligations.ScaleIsRoundedRoot := by
  intro N hpos hN
  refine ⟨?_, fun k hk => ?_⟩
  · have hround := roundsTo_sqrtRatio (num := 1) hpos (by omega) (by omega)
    rwa [Nat.cast_one, ← scale_zero] at hround
  · have hround := roundsTo_sqrtRatio (num := 2) hpos (by omega) (by omega)
    rwa [Nat.cast_ofNat, ← scale_of_pos N hk] at hround

end Sys2Proof.Machine
end

section
/-! SUPPORT. The cosine series of the twiddle table (43_dct.md R161) as partial sums of an alternating series, and so as bounds of the
cosine. -/

namespace Sys2Proof.Machine

open Filter Finset Topology

/-! ### The series of the cosine -/

/-- The magnitude of term i of the series of `cos x`. -/
noncomputable def cosTerm (x : ℝ) (i : Nat) : ℝ := x ^ (2 * i) / (2 * i).factorial

/-- The alternating sum of n of its terms from term i on. -/
noncomputable def cosPartial (x : ℝ) (i n : Nat) : ℝ := ∑ k ∈ range n, (-1) ^ k * cosTerm x (i + k)

@[simp] theorem cosTerm_zero (x : ℝ) : cosTerm x 0 = 1 := by simp [cosTerm]

theorem cosTerm_nonneg (x : ℝ) (i : Nat) : 0 ≤ cosTerm x i := by
  rw [cosTerm, pow_mul]
  positivity

theorem cosTerm_succ (x : ℝ) (i : Nat) : cosTerm x (i + 1) = cosTerm x i * (x ^ 2 / ((2 * i + 1) * (2 * i + 2))) := by
  have hfactorial : ((2 * (i + 1)).factorial : ℝ) = (2 * i + 2) * ((2 * i + 1) * (2 * i).factorial) := by
    rw [show 2 * (i + 1) = 2 * i + 1 + 1 by ring, Nat.factorial_succ, Nat.factorial_succ]
    push_cast
    ring
  rw [cosTerm, cosTerm, hfactorial]
  field_simp
  ring

theorem cosPartial_succ (x : ℝ) (i n : Nat) : cosPartial x i (n + 1) = cosTerm x i - cosPartial x (i + 1) n := by
  rw [cosPartial, cosPartial, sum_range_succ', sub_eq_add_neg, ← sum_neg_distrib, add_comm]
  refine congrArg₂ _ (by simp) (sum_congr rfl fun k _ => ?_)
  rw [pow_succ, add_right_comm, add_assoc]
  ring

/-- From its second term on the series sums to `1 - cos x`. -/
theorem tendsto_cosPartial (x : ℝ) : Tendsto (cosPartial x 1) atTop (𝓝 (1 - Real.cos x)) := by
  have hsum : Tendsto (cosPartial x 0) atTop (𝓝 (Real.cos x)) :=
    (Real.hasSum_cos x).tendsto_sum_nat.congr fun n => by simp [cosPartial, cosTerm, mul_div_assoc]
  have hshift : cosPartial x 1 = fun n => 1 - cosPartial x 0 (n + 1) := funext fun n => by
    rw [cosPartial_succ, cosTerm_zero, zero_add, sub_sub_cancel]
  rw [hshift]
  exact tendsto_const_nhds.sub (hsum.comp (tendsto_add_atTop_nat 1))

section

variable {x : ℝ} (hx : x ^ 2 ≤ 12)

include hx

/-- From its second term on the series falls. -/
theorem antitone_cosTerm : Antitone fun i => cosTerm x (1 + i) := by
  refine antitone_nat_of_succ_le fun i => ?_
  rw [← add_assoc, cosTerm_succ]
  refine mul_le_of_le_one_right (cosTerm_nonneg x _) ((div_le_one (by positivity)).mpr ?_)
  push_cast
  nlinarith [(i.cast_nonneg : (0 : ℝ) ≤ i)]

/-- The series cut after a negative term is below the cosine. -/
theorem one_sub_cosPartial_le_cos (k : Nat) : 1 - cosPartial x 1 (2 * k + 1) ≤ Real.cos x := by
  have := (antitone_cosTerm hx).tendsto_le_alternating_series (tendsto_cosPartial x) k
  simp only [cosPartial]
  linarith

/-- The series cut after a positive term is above the cosine. -/
theorem cos_le_one_sub_cosPartial (k : Nat) : Real.cos x ≤ 1 - cosPartial x 1 (2 * k) := by
  have := (antitone_cosTerm hx).alternating_series_le_tendsto (tendsto_cosPartial x) k
  simp only [cosPartial]
  linarith

end

/-! ### Horner's rule -/

/-- The value of the fraction of `cosSeries`. -/
noncomputable def cosRatio (a b n j : Nat) : ℝ := (cosSeries a b n j).1 / (cosSeries a b n j).2

/-- The fraction is a proper one. -/
theorem cosSeries_bounds (a : Nat) {b : Nat} (hb : 0 < b) (n i : Nat) :
    0 < (cosSeries a b n (i + 1)).2 ∧ (cosSeries a b n (i + 1)).1 ≤ (cosSeries a b n (i + 1)).2 := by
  induction n generalizing i with
  | zero => exact ⟨Nat.one_pos, Nat.le_refl 1⟩
  | succ n ih =>
    obtain ⟨hpos, -⟩ := ih (i + 1)
    have hfactor : 0 < (2 * (i + 1) - 1) * (2 * (i + 1)) := Nat.mul_pos (by omega) (by omega)
    exact ⟨Nat.mul_pos (Nat.mul_pos (Nat.mul_pos hb hb) hfactor) hpos, Nat.sub_le _ _⟩

theorem cosRatio_le_one (a : Nat) {b : Nat} (hb : 0 < b) (n i : Nat) : cosRatio a b n (i + 1) ≤ 1 := by
  obtain ⟨hpos, hle⟩ := cosSeries_bounds a hb n i
  exact (div_le_one (by exact_mod_cast hpos)).mpr (by exact_mod_cast hle)

theorem cosRatio_nonneg (a b n j : Nat) : 0 ≤ cosRatio a b n j := div_nonneg (Nat.cast_nonneg _) (Nat.cast_nonneg _)

/-- One level of Horner's rule; the subtraction of naturals cuts a negative value off at 0. -/
theorem cosRatio_succ (a : Nat) {b : Nat} (hb : 0 < b) (n i : Nat) :
    cosRatio a b (n + 1) (i + 1) =
      max 0 (1 - ((a : ℝ) / b) ^ 2 / ((2 * i + 1) * (2 * i + 2)) * cosRatio a b n (i + 2)) := by
  obtain ⟨hpos, -⟩ := cosSeries_bounds a hb n (i + 1)
  have hb' : (0 : ℝ) < b := by exact_mod_cast hb
  have hpos' : (0 : ℝ) < (cosSeries a b n (i + 2)).2 := by exact_mod_cast hpos
  have hcut (p q : Nat) : ((p - q : ℕ) : ℝ) = max 0 ((p : ℝ) - q) := by
    rcases le_total q p with h | h
    · rw [Nat.cast_sub h, max_eq_right (sub_nonneg.mpr (by exact_mod_cast h))]
    · rw [Nat.sub_eq_zero_of_le h, Nat.cast_zero, max_eq_left (sub_nonpos.mpr (by exact_mod_cast h))]
  have hodd : 2 * (i + 1) - 1 = 2 * i + 1 := by omega
  rw [cosRatio, cosSeries, hcut, hodd, ← max_div_div_right (Nat.cast_nonneg _), zero_div, sub_div, div_self, cosRatio]
  · congr 2
    push_cast
    field_simp
  · push_cast
    positivity

section

variable {a b : Nat} (hb : 0 < b) (hx : ((a : ℝ) / b) ^ 2 ≤ 12)

include hb hx

/-- Below the first level nothing is cut off: Horner's rule gives the alternating sum. -/
theorem cosTerm_mul_cosRatio (n i : Nat) :
    cosTerm ((a : ℝ) / b) (i + 1) * cosRatio a b n (i + 2) = cosPartial ((a : ℝ) / b) (i + 1) (n + 1) := by
  induction n generalizing i with
  | zero => simp [cosRatio, cosSeries, cosPartial]
  | succ n ih =>
    have hlevel : ((a : ℝ) / b) ^ 2 / ((2 * (i + 1 : ℕ) + 1) * (2 * (i + 1 : ℕ) + 2)) ≤ 1 := by
      refine (div_le_one (by positivity)).mpr ?_
      push_cast
      nlinarith [(i.cast_nonneg : (0 : ℝ) ≤ i)]
    have hcut := mul_le_one₀ hlevel (cosRatio_nonneg a b n (i + 3)) (cosRatio_le_one a hb n (i + 2))
    rw [cosRatio_succ a hb, max_eq_right (sub_nonneg.mpr hcut), mul_sub, mul_one, ← mul_assoc, ← cosTerm_succ, ih, ← cosPartial_succ]

/-- The series as the partial sum, or 0 where that is negative. -/
theorem cosRatio_eq_max (n : Nat) : cosRatio a b (n + 1) 1 = max 0 (1 - cosPartial ((a : ℝ) / b) 1 (n + 1)) := by
  rw [cosRatio_succ a hb, ← cosTerm_mul_cosRatio hb hx, cosTerm_succ, cosTerm_zero, one_mul]

/-- Cut after a negative term, the fraction is below every value that neither 0 nor the cosine exceeds. -/
theorem cosRatio_le_of_cos_le (k : Nat) {y : ℝ} (hy : 0 ≤ y) (hcos : Real.cos ((a : ℝ) / b) ≤ y) :
    cosRatio a b (2 * k + 1) 1 ≤ y := by
  rw [cosRatio_eq_max hb hx]
  exact max_le hy ((one_sub_cosPartial_le_cos hx k).trans hcos)

/-- Cut after a positive term, the fraction is above the cosine. -/
theorem cos_le_cosRatio (k : Nat) : Real.cos ((a : ℝ) / b) ≤ cosRatio a b (2 * k + 2) 1 := by
  rw [cosRatio_eq_max hb hx]
  exact le_max_of_le_right (cos_le_one_sub_cosPartial hx (k + 1))

end

end Sys2Proof.Machine
end

section
/-! The statement about the twiddle table (43_dct.md R161, R162, 00_scope.md R17). -/

namespace Sys2Proof.Machine

open Sys2Proof.Reference

/-! ### Angles -/

/-- The angle of entry m of the table. -/
noncomputable def twiddleAngle (N m : Nat) : ℝ := Real.pi * m / (2 * N)

theorem twiddleAngle_add (N a b : Nat) : twiddleAngle N (a + b) = twiddleAngle N a + twiddleAngle N b := by
  simp only [twiddleAngle]
  push_cast
  ring

section

variable {N : Nat} (hN : 0 < N)

include hN

theorem twiddleAngle_quarter_turn : twiddleAngle N N = Real.pi / 2 := by
  have : (N : ℝ) ≠ 0 := by exact_mod_cast hN.ne'
  simp only [twiddleAngle]
  field_simp

theorem twiddleAngle_half_turn : twiddleAngle N (2 * N) = Real.pi := by
  rw [two_mul, twiddleAngle_add, twiddleAngle_quarter_turn hN, add_halves]

/-- The first quarter of the table has the angles of the first quadrant. -/
theorem twiddleAngle_bounds {m : Nat} (hm : m < N) : 0 ≤ twiddleAngle N m ∧ twiddleAngle N m ≤ Real.pi / 2 := by
  have hpi := Real.pi_pos
  refine ⟨div_nonneg (by positivity) (by positivity), ?_⟩
  rw [← twiddleAngle_quarter_turn hN, twiddleAngle, twiddleAngle]
  gcongr

/-! ### The first quarter -/

/-- The numerators of `cosLow` and `cosHigh` are angles on either side of the exact one. -/
theorem twiddleAngle_between (m : Nat) :
    ((314159265358979323846 * m : ℕ) : ℝ) / (2 * N * 10 ^ 20 : ℕ) ≤ twiddleAngle N m ∧
      twiddleAngle N m ≤ ((314159265358979323847 * m : ℕ) : ℝ) / (2 * N * 10 ^ 20 : ℕ) := by
  have hN' : (0 : ℝ) < N := by exact_mod_cast hN
  have hm : (0 : ℝ) ≤ m := m.cast_nonneg
  constructor
  · calc ((314159265358979323846 * m : ℕ) : ℝ) / (2 * N * 10 ^ 20 : ℕ) = 3.14159265358979323846 * m / (2 * N) := by
          push_cast; field_simp; ring
      _ ≤ _ := by unfold twiddleAngle; gcongr; exact Real.pi_gt_d20.le
  · calc twiddleAngle N m ≤ 3.14159265358979323847 * m / (2 * N) := by unfold twiddleAngle; gcongr; exact Real.pi_lt_d20.le
      _ = _ := by push_cast; field_simp; ring

/-- Both bounding angles are at most 2. -/
theorem twiddleAngle_upper_le_two {m : Nat} (hm : m < N) :
    ((314159265358979323847 * m : ℕ) : ℝ) / (2 * N * 10 ^ 20 : ℕ) ≤ 2 := by
  refine (div_le_iff₀ (by positivity)).mpr ?_
  exact_mod_cast (show 314159265358979323847 * m ≤ 2 * (2 * N * 10 ^ 20) by omega)

/-- The two rational bounds of an entry of the first quarter enclose the exact cosine. -/
theorem cos_between_bounds {m : Nat} (hm : m < N) :
    ((cosLow N m).1 : ℝ) / (cosLow N m).2 ≤ Real.cos (twiddleAngle N m) ∧
      Real.cos (twiddleAngle N m) ≤ ((cosHigh N m).1 : ℝ) / (cosHigh N m).2 := by
  have hden : 0 < 2 * N * 10 ^ 20 := by positivity
  obtain ⟨hlow, hhigh⟩ := twiddleAngle_between hN m
  obtain ⟨hnonneg, hquadrant⟩ := twiddleAngle_bounds hN hm
  have htwo := twiddleAngle_upper_le_two hN hm
  have hpi := Real.pi_gt_three
  have hnonneg' : (0 : ℝ) ≤ ((314159265358979323846 * m : ℕ) : ℝ) / (2 * N * 10 ^ 20 : ℕ) := by positivity
  have hcos : 0 ≤ Real.cos (twiddleAngle N m) := Real.cos_nonneg_of_neg_pi_div_two_le_of_le (by linarith) hquadrant
  constructor
  · have hle := Real.cos_le_cos_of_nonneg_of_le_pi hnonneg (by linarith) hhigh
    exact cosRatio_le_of_cos_le hden (by nlinarith) 6 hcos hle
  · have hle := Real.cos_le_cos_of_nonneg_of_le_pi hnonneg' (by linarith) hlow
    exact hle.trans (cos_le_cosRatio hden (by nlinarith) 6)

/-- The fractions of the bounds are proper ones. -/
theorem cosLow_bounds (m : Nat) : 0 < (cosLow N m).2 ∧ (cosLow N m).1 ≤ (cosLow N m).2 :=
  cosSeries_bounds _ (by positivity) 13 0

theorem cosHigh_bounds (m : Nat) : 0 < (cosHigh N m).2 ∧ (cosHigh N m).1 ≤ (cosHigh N m).2 :=
  cosSeries_bounds _ (by positivity) 14 0

theorem finiteF32_quarterWave (m : Nat) : FiniteF32 (quarterWave N m) := by
  obtain ⟨hpos, hle⟩ := cosLow_bounds hN m
  exact finiteF32_f32OfRatio hpos (by omega)

/-- An entry of the first quarter whose bounds round alike is the exact cosine rounded once. -/
theorem roundsTo_quarterWave {m : Nat} (hm : m < N) (hdecided : quarterWaveDecided N m = true) :
    RoundsTo (Real.cos (twiddleAngle N m)) (quarterWave N m) := by
  obtain ⟨hpos, hle⟩ := cosLow_bounds hN m
  obtain ⟨hpos', hle'⟩ := cosHigh_bounds hN m
  obtain ⟨hlow, hhigh⟩ := cos_between_bounds hN hm
  exact roundsTo_of_between_ratios hpos (by omega) hpos' (by omega) (beq_iff_eq.mp hdecided) hlow hhigh

end

/-! ### Quarter-wave folding -/

theorem roundsTo_f32Neg {x : ℝ} {r : F32} (h : RoundsTo x r) : RoundsTo (-x) (f32Neg r) := by
  obtain ⟨hfin, hnear⟩ := h
  refine ⟨finiteF32_f32Neg.mpr hfin, fun b hb => ?_⟩
  obtain ⟨hle, htie⟩ := hnear (f32Neg b) (finiteF32_f32Neg.mpr hb)
  have hdist (a : ℚ) (y : ℝ) : |((-a : ℚ) : ℝ) - y| = |(a : ℝ) + y| := by
    rw [Rat.cast_neg, ← neg_add', abs_neg]
  have hbit : (f32Neg r).getLsbD 0 = r.getLsbD 0 := by simp [f32Neg]
  rw [realValue_f32Neg, hdist] at hle htie
  rw [realValue_f32Neg, hdist, ← sub_eq_add_neg, sub_neg_eq_add, hbit]
  exact ⟨hle, fun heq hne => htie heq fun h => hne (by rw [← h, neg_neg])⟩

theorem roundsTo_zero : RoundsTo 0 0 := by
  have hround := roundsTo_f32OfRatio Nat.one_pos (Nat.zero_le (2 * 1))
  rwa [Nat.cast_zero, zero_div, show f32OfRatio 0 1 = 0 by decide] at hround

/-- Every entry is an entry of the first quarter, its negation, or +0.0 (43_dct.md R162). -/
theorem twiddle_cases {N m : Nat} (hm : m < 4 * N) :
    ((m = N ∨ m = 3 * N) ∧ twiddle N m = 0) ∨
    (m < N ∧ twiddle N m = quarterWave N m) ∨
    (∃ k < N, m + k = 2 * N ∧ twiddle N m = f32Neg (quarterWave N k)) ∨
    (∃ k < N, m = 2 * N + k ∧ twiddle N m = f32Neg (quarterWave N k)) ∨
    ∃ k < N, m + k = 4 * N ∧ twiddle N m = quarterWave N k := by
  unfold twiddle
  split_ifs with hzero h1 h2 h3
  · exact .inl ⟨hzero, rfl⟩
  · exact .inr (.inl ⟨h1, rfl⟩)
  · exact .inr (.inr (.inl ⟨2 * N - m, by omega, by omega, rfl⟩))
  · exact .inr (.inr (.inr (.inl ⟨m - 2 * N, by omega, by omega, rfl⟩)))
  · exact .inr (.inr (.inr (.inr ⟨4 * N - m, by omega, by omega, rfl⟩)))

theorem finiteF32_twiddle {N m : Nat} (hm : m < 4 * N) : FiniteF32 (twiddle N m) := by
  have hquarter := finiteF32_quarterWave (show 0 < N by omega)
  obtain ⟨-, h⟩ | ⟨-, h⟩ | ⟨k, -, -, h⟩ | ⟨k, -, -, h⟩ | ⟨k, -, -, h⟩ := twiddle_cases hm <;> rw [h]
  · exact nonnegF32_zero.1
  · exact hquarter m
  · exact finiteF32_f32Neg.mpr (hquarter k)
  · exact finiteF32_f32Neg.mpr (hquarter k)
  · exact hquarter k

section

variable {N m k : Nat} (hN : 0 < N)

include hN

/-- The cosine is negated by a reflection at the quarter turn. -/
theorem cos_twiddleAngle_of_add_eq_half (h : m + k = 2 * N) : Real.cos (twiddleAngle N m) = -Real.cos (twiddleAngle N k) := by
  have hsum := twiddleAngle_add N m k
  rw [h, twiddleAngle_half_turn hN] at hsum
  rw [← Real.cos_pi_sub, hsum, add_sub_cancel_right]

/-- The cosine is negated by a half turn. -/
theorem cos_twiddleAngle_half_add (k : Nat) : Real.cos (twiddleAngle N (2 * N + k)) = -Real.cos (twiddleAngle N k) := by
  rw [twiddleAngle_add, twiddleAngle_half_turn hN, add_comm, Real.cos_add_pi]

/-- The cosine is kept by a reflection at the half turn. -/
theorem cos_twiddleAngle_of_add_eq_turn (h : m + k = 4 * N) : Real.cos (twiddleAngle N m) = Real.cos (twiddleAngle N k) := by
  have hsum := twiddleAngle_add N m k
  rw [h, show 4 * N = 2 * N + 2 * N by ring, twiddleAngle_add, twiddleAngle_half_turn hN, ← two_mul] at hsum
  rw [← Real.cos_two_pi_sub, hsum, add_sub_cancel_left]

theorem cos_twiddleAngle_zero (h : m = N ∨ m = 3 * N) : Real.cos (twiddleAngle N m) = 0 := by
  have hquarter : Real.cos (twiddleAngle N N) = 0 := by rw [twiddleAngle_quarter_turn hN, Real.cos_pi_div_two]
  rcases h with rfl | rfl
  · exact hquarter
  · rw [show 3 * N = 2 * N + N by ring, cos_twiddleAngle_half_add hN, hquarter, neg_zero]

end

/-- Settles O59: the first quarter by its bounds, the rest by the symmetries of the cosine. -/
theorem twiddleIsRoundedCosine : Obligations.TwiddleIsRoundedCosine := by
  intro N hN _ hdecided
  have hquarter {k : Nat} (hk : k < N) := roundsTo_quarterWave hN hk (hdecided k hk)
  refine ⟨fun m hm => ?_, if_pos (.inl rfl), if_pos (.inr rfl)⟩
  change RoundsTo (Real.cos (twiddleAngle N m)) (twiddle N m)
  obtain ⟨hzero, h⟩ | ⟨hm, h⟩ | ⟨k, hk, hmk, h⟩ | ⟨k, hk, rfl, h⟩ | ⟨k, hk, hmk, h⟩ := twiddle_cases hm <;> rw [h]
  · rw [cos_twiddleAngle_zero hN hzero]
    exact roundsTo_zero
  · exact hquarter hm
  · rw [cos_twiddleAngle_of_add_eq_half hN hmk]
    exact roundsTo_f32Neg (hquarter hk)
  · rw [cos_twiddleAngle_half_add hN]
    exact roundsTo_f32Neg (hquarter hk)
  · rw [cos_twiddleAngle_of_add_eq_turn hN hmk]
    exact hquarter hk

end Sys2Proof.Machine
end

section
/-! SUPPORT. Zeros of either sign and the one NaN in products and sums (00_scope.md R13, R19). -/

namespace Sys2Proof.Machine

open Sys2Proof.Reference

/-! ### Zeros -/

/-- A zero of either sign. -/
def ZeroF32 (a : F32) : Prop := f32Bits a = 0

theorem zeroF32_zero : ZeroF32 0 := rfl

theorem zeroF32_negZero : ZeroF32 0x80000000 := rfl

theorem ZeroF32.finite {a : F32} (h : ZeroF32 a) : FiniteF32 a := finiteF32_iff.mpr (by rw [ZeroF32] at h; omega)

theorem ZeroF32.mag {a : F32} (h : ZeroF32 a) : f32Mag a = 0 := by rw [f32Mag_eq, h, bitsMag_zero]

theorem ZeroF32.signed {a : F32} (h : ZeroF32 a) : f32Signed a = 0 := f32Signed_eq_zero.mpr h.mag

theorem zeroF32_of_signed {a : F32} (h : f32Signed a = 0) : ZeroF32 a :=
  bitsMag_strictMono.injective ((f32Mag_eq a).symm.trans (f32Signed_eq_zero.mp h))

/-- The negative zero is the one zero with a sign. -/
theorem ZeroF32.sign_of_ne {a : F32} (h : ZeroF32 a) (hneg : a ≠ 0x80000000) : f32Sign a = false := by
  refine Bool.eq_false_iff.mpr fun hsign => hneg ?_
  rw [← f32Pack_sign_bits a, hsign, h]
  rfl

theorem satU8_of_zeroF32 {a : F32} (h : ZeroF32 a) : satU8 a = 0 := by
  rw [satU8_of_finite h.finite, if_pos h.signed.le]

theorem fmul_comm (a b : F32) : fmul a b = fmul b a := by
  simp only [fmul, Nat.mul_comm (f32Mag b), Bool.or_comm (f32IsNaN b), Bool.or_comm (f32IsInf b), or_comm (a := f32Mag b = 0),
    bne_comm (a := f32Sign b)]

theorem zeroF32_fmul {a z : F32} (ha : FiniteF32 a) (hz : ZeroF32 z) : ZeroF32 (fmul a z) := by
  rw [ZeroF32, fmul_of_finite ha hz.finite, hz.mag, Nat.mul_zero, roundMag_zero, f32Bits_f32Pack _ (by decide)]

/-! ### Values of the arithmetic -/

/-- The value is no NaN but the one that arithmetic gives. -/
def CanonicalF32 (a : F32) : Prop := f32IsNaN a = true → a = f32NaN

theorem canonicalF32_of_finite {a : F32} (h : FiniteF32 a) : CanonicalF32 a := fun hnan =>
  absurd (hnan.symm.trans (f32IsNaN_of_finite h)) nofun

theorem f32IsNaN_f32Pack_roundMag (s : Bool) (n d : Nat) : f32IsNaN (f32Pack s (roundMag n d)) = false := by
  have hle := roundMag_le n d
  rw [Bool.eq_false_iff, ne_eq, f32IsNaN_iff, f32Bits_f32Pack s (by omega)]
  omega

theorem canonicalF32_fmul (a b : F32) : CanonicalF32 (fmul a b) := by
  simp only [CanonicalF32, fmul]
  split_ifs with hnan hinf hzero
  · exact fun _ => rfl
  · exact fun _ => rfl
  · exact fun h => by simp [f32Inf_eq] at h
  · exact fun h => by simp [f32IsNaN_f32Pack_roundMag] at h

/-- A value is finite, the NaN or an infinity. -/
theorem CanonicalF32.cases {a : F32} (h : CanonicalF32 a) : FiniteF32 a ∨ a = f32NaN ∨ ∃ s, a = infinity s := by
  rcases lt_trichotomy (f32Bits a) 0x7F800000 with hlt | heq | hgt
  · exact .inl (finiteF32_iff.mpr hlt)
  · exact .inr (.inr ⟨f32Sign a, by rw [infinity_eq, ← heq, f32Pack_sign_bits]⟩)
  · exact .inr (.inl (h (f32IsNaN_iff.mpr hgt)))

theorem fmul_one_right {a : F32} (h : CanonicalF32 a) : fmul a 0x3F800000 = a := by
  rcases h.cases with hfin | rfl | ⟨s, rfl⟩
  · rw [fmul_comm, fmul_one_left hfin]
  · decide
  · cases s <;> decide

/-! ### Sums with zeros -/

theorem decide_f32Signed_neg {a : F32} (h : f32Signed a ≠ 0) : decide (f32Signed a < 0) = f32Sign a := by
  rw [f32Signed] at h ⊢
  cases f32Sign a <;> simp at h ⊢
  omega

/-- A zero added changes no value but the negative zero. -/
theorem fadd_zeroF32 {a z : F32} (ha : CanonicalF32 a) (hneg : a ≠ 0x80000000) (hz : ZeroF32 z) : fadd a z = a := by
  rcases ha.cases with hfin | rfl | ⟨s, rfl⟩
  · have hsign : sumSign a z = f32Sign a := by
      rw [sumSign, hz.signed, add_zero]
      split_ifs with h0
      · rw [(zeroF32_of_signed h0).sign_of_ne hneg, Bool.false_and]
      · exact decide_f32Signed_neg h0
    have habs : (f32Signed a).natAbs = f32Mag a := by
      rw [f32Signed]
      split_ifs <;> omega
    rw [fadd_of_finite hfin hz.finite, hsign, hz.signed, add_zero, habs, f32Mag_eq, roundMag_bitsMag (finiteF32_iff.mp hfin).le,
      f32Pack_sign_bits]
  · exact if_pos (by simp)
  · exact fadd_infinity_left hz.finite s

/-- A sum begins with its first term, or with +0.0 where that is the negative zero. -/
theorem zero_fadd {a : F32} (ha : CanonicalF32 a) : fadd 0 a = if a = 0x80000000 then 0 else a := by
  split_ifs with hneg
  · rw [hneg]
    decide
  · rcases ha.cases with hfin | rfl | ⟨s, rfl⟩
    · have hcomm : fadd 0 a = fadd a 0 := by
        simp only [fadd_of_finite zeroF32_zero.finite hfin, fadd_of_finite hfin zeroF32_zero.finite, sumSign, add_comm (f32Signed a),
          Bool.and_comm (f32Sign a)]
      rw [hcomm, fadd_zeroF32 ha hneg zeroF32_zero]
    · decide
    · exact fadd_infinity_right zeroF32_zero.finite s

/-- A sum whose terms after the first are zeros is the sum of +0.0 and the first. -/
theorem sum_first_term {f : Nat → F32} {n : Nat} (hn : 0 < n) (hfirst : CanonicalF32 (f 0)) (hzero : ∀ i < n, 0 < i → ZeroF32 (f i)) :
    (List.range n).foldl (fun acc i => fadd acc (f i)) 0x00000000 = fadd 0 (f 0) := by
  induction n, hn using Nat.le_induction with
  | base => rfl
  | succ n hn ih =>
    rw [List.range_succ, List.foldl_append, ih fun i hi => hzero i (hi.trans n.lt_succ_self), List.foldl_cons, List.foldl_nil,
      zero_fadd hfirst]
    have hterm := hzero n n.lt_succ_self hn
    split_ifs with hneg
    · exact fadd_zeroF32 (canonicalF32_of_finite zeroF32_zero.finite) (by decide) hterm
    · exact fadd_zeroF32 hfirst hneg hterm

/-- A byte does not show whether a sum began with +0.0. -/
theorem satU8_zero_fadd {a : F32} (ha : CanonicalF32 a) : satU8 (fadd 0 a) = satU8 a := by
  rw [zero_fadd ha]
  split_ifs with hneg
  · rw [hneg]
    decide
  · rfl

theorem satU8_fmul_zero_fadd {a b : F32} (ha : FiniteF32 a) (hb : CanonicalF32 b) : satU8 (fmul a (fadd 0 b)) = satU8 (fmul a b) := by
  rw [zero_fadd hb]
  split_ifs with hneg
  · rw [satU8_of_zeroF32 (zeroF32_fmul ha zeroF32_zero), hneg, satU8_of_zeroF32 (zeroF32_fmul ha zeroF32_negZero)]
  · rfl

end Sys2Proof.Machine
end

section
/-! The statement about the inverse transform of a DC-only spectrum (43_dct.md R169). -/

namespace Sys2Proof.Machine

open Sys2Proof.Reference

/-! ### Factors of the transforms -/

/-- 0x3F800000 is 1.0. -/
theorem f32OfRatio_self {d : Nat} (hd : 0 < d) : f32OfRatio d d = 0x3F800000 := by
  have hone : bitsMag 0x3F800000 = 2 ^ 149 := by decide
  rw [f32OfRatio, ← hone, roundMag_mul_bitsMag (by decide) hd]
  rfl

/-- The cosine of angle 0 is 1.0. -/
theorem C_zero_left {N : Nat} (hN : 0 < N) (n : Nat) : C N 0 n = 0x3F800000 := by
  obtain ⟨hpos, -⟩ := cosLow_bounds hN 0
  have hequal : (cosLow N 0).1 = (cosLow N 0).2 := by simp [cosLow, cosSeries]
  rw [C, Nat.mul_zero, Nat.zero_mod, twiddle, if_neg (by omega), if_pos hN, quarterWave, hequal, f32OfRatio_self hpos]

theorem finiteF32_C {N : Nat} (hN : 0 < N) (k n : Nat) : FiniteF32 (C N k n) :=
  finiteF32_twiddle (Nat.mod_lt _ (by omega))

theorem finiteF32_scale {N : Nat} (hN : 0 < N) (hN' : N ≤ 65535) (k : Nat) : FiniteF32 (scale N k) := by
  obtain ⟨⟨hzero, -⟩, hpos⟩ := scaleIsRoundedRoot N hN hN'
  rcases Nat.eq_zero_or_pos k with rfl | hk
  · exact hzero
  · exact (hpos k hk).1

/-- The sides of a valid image are lengths of the tables. -/
theorem sides_le_of_valid {c : Config} {op : Op} {vis : Bool} {l : Params} (hvalid : validateOperands c op vis l = none) :
    l.width.toNat ≤ 65535 ∧ l.height.toNat ≤ 65535 := by
  obtain ⟨hdim, -, -, -⟩ := validateOperands_eq_none.mp hvalid
  simp only [dimBad, Bool.or_eq_false_iff, decide_eq_false_iff_not] at hdim
  obtain ⟨⟨⟨-, hw⟩, hh⟩, -⟩ := hdim
  have := c.maxW.isLt
  have := c.maxH.isLt
  omega

/-! ### The two passes -/

/-- A pass over a line with nothing but +0.0 after its first element. -/
theorem idctSum_of_dc_only {N : Nat} (hN : 0 < N) (hN' : N ≤ 65535) {c : Nat → F32} (hzero : ∀ k < N, 0 < k → c k = 0) (n : Nat) :
    (List.range N).foldl (fun acc k => fadd acc (fmul (fmul (scale N k) (c k)) (C N k n))) 0x00000000 =
      fadd 0 (fmul (scale N 0) (c 0)) := by
  have hfirst : fmul (fmul (scale N 0) (c 0)) (C N 0 n) = fmul (scale N 0) (c 0) := by
    rw [C_zero_left hN, fmul_one_right (canonicalF32_fmul _ _)]
  have hrest : ∀ k < N, 0 < k → ZeroF32 (fmul (fmul (scale N k) (c k)) (C N k n)) := fun k hk hpos => by
    rw [hzero k hk hpos, fmul_comm]
    exact zeroF32_fmul (finiteF32_C hN k n) (zeroF32_fmul (finiteF32_scale hN hN' k) zeroF32_zero)
  have hsum := sum_first_term (f := fun k => fmul (fmul (scale N k) (c k)) (C N k n)) hN (canonicalF32_fmul _ _) hrest
  rwa [hfirst] at hsum

section

variable {s : State} (hW : 0 < W s) (hW' : W s ≤ 65535) (hdc : ∀ i < W s * H s, i ≠ 0 → coef s i = 0x00000000)

include hdc

theorem source_of_dc_only {u v : Nat} (hu : u < W s) (hv : v < H s) (hpos : 0 < u ∨ 0 < v) : source s u v = 0 := by
  refine hdc (v * W s + u) (Nat.mul_comm (W s) (H s) ▸ grid_index_lt hu hv) fun hindex => ?_
  obtain ⟨hrow, hcol⟩ := Nat.add_eq_zero_iff.mp hindex
  rcases Nat.mul_eq_zero.mp hrow with h | h <;> omega

include hW hW'

/-- Row 0 of pass 1 is uniform. -/
theorem idctS_zero_of_dc_only (hH : 0 < H s) (x : Nat) : idctS s 0 x = fadd 0 (fmul (scale (W s) 0) (coef s 0)) := by
  have hcoef : source s 0 0 = coef s 0 := by rw [source, coef, Nat.zero_mul]
  rw [← hcoef]
  exact idctSum_of_dc_only hW hW' (fun u hu hpos => source_of_dc_only hdc hu hH (.inl hpos)) x

/-- Every other row of pass 1 is +0.0. -/
theorem idctS_pos_of_dc_only {v : Nat} (hv : v < H s) (hpos : 0 < v) (x : Nat) : idctS s v x = 0 := by
  have hzero {u : Nat} (hu : u < W s) : source s u v = 0 := source_of_dc_only hdc hu hv (.inr hpos)
  refine (idctSum_of_dc_only hW hW' (fun u hu _ => hzero hu) x).trans ?_
  rw [hzero hW]
  exact fadd_zeroF32 (canonicalF32_of_finite zeroF32_zero.finite) (by decide)
    (zeroF32_fmul (finiteF32_scale hW hW' 0) zeroF32_zero)

/-- The samples of pass 2 are uniform, and give the byte of the product of both scales with the coefficient. -/
theorem satU8_idctG_of_dc_only (hH : 0 < H s) (hH' : H s ≤ 65535) (y x : Nat) :
    satU8 (idctG s y x) = satU8 (fmul (scale (H s) 0) (fmul (scale (W s) 0) (coef s 0))) := by
  have hsample : idctG s y x = fadd 0 (fmul (scale (H s) 0) (idctS s 0 x)) :=
    idctSum_of_dc_only hH hH' (fun v hv hpos => idctS_pos_of_dc_only hW hW' hdc hv hpos x) y
  rw [hsample, idctS_zero_of_dc_only hW hW' hdc hH, satU8_zero_fadd (canonicalF32_fmul _ _),
    satU8_fmul_zero_fadd (finiteF32_scale hH hH' 0) (canonicalF32_fmul _ _)]

end

/-- Settles O39: every output pixel is its converted sample, and the samples are uniform. -/
theorem idctOfDcOnlyIsUniform : Obligations.IdctOfDcOnlyIsUniform := by
  intro s hrun hmem hcfg hdc
  obtain ⟨t, hexec, -, -, hout⟩ := idctOutput s hrun hmem hcfg
  obtain ⟨hW, hH, -⟩ := image_of_valid hrun.valid
  obtain ⟨hW', hH'⟩ := sides_le_of_valid hrun.valid
  refine ⟨t, hexec, fun x y hx hy => ?_⟩
  rw [hout x y hx hy, satU8_idctG_of_dc_only hW hW' hdc hH hH']

end Sys2Proof.Machine
end

section
/-! SUPPORT. `norm` of the model (44_spectral_mask.md R185, R186) as that of the reference, and the words and DEGEN a spectral command
stores. -/

namespace Sys2Proof.Machine

open Sys2Proof.Reference

/-! ### `norm` -/

/-- The model's one scan for both bounds is the reference's two (44_spectral_mask.md R185). -/
theorem normBounds_map_range (c : Nat → F32) (n : Nat) : normBounds ((List.range n).map c) = (normLo c n, normHi c n) := by
  rw [normBounds, List.foldl_map, normLo, normHi]
  induction n with
  | zero => rfl
  | succ n ih => simp only [List.range_succ, List.foldl_append, ih, List.foldl_cons, List.foldl_nil]

/-- 0x437F0000 is 255.0. -/
theorem normWord_eq_normElement (c : Nat → F32) (n i : Nat) :
    normWord c n i =
      if fgt (normHi c n) (normLo c n) then normElement (normLo c n) (fsub (normHi c n) (normLo c n)) (c i) else 0 := by
  rw [normWord, normElement, show f32OfNat 255 = 0x437F0000 by decide]

theorem normWords_map_range (c : Nat → F32) (n : Nat) :
    normWords ((List.range n).map c) = ((List.range n).map (normWord c n), normDegen c n) := by
  rw [normWords, normBounds_map_range, normDegen, funext (normWord_eq_normElement c n)]
  cases hrange : fgt (normHi c n) (normLo c n) <;> simp [Function.comp_def]

/-- `norm` of a list, given its elements by position. -/
theorem normWords_of_getElem {ws : List F32} {c : Nat → F32} {n : Nat} (hlen : ws.length = n)
    (hget : ∀ i (hi : i < ws.length), c i = ws[i]) : normWords ws = ((List.range n).map (normWord c n), normDegen c n) := by
  have hlist : ws = (List.range n).map c := List.ext_getElem (by simpa using hlen) fun i hi _ => by simp [hget i hi]
  rw [hlist, normWords_map_range]

/-! ### Stored results -/

section

variable {op : Op} {vis : Bool} {s : State} {r : Result} (hvalid : validateOperands s.cfg op vis s.latch = none)
  (hmem : s.mem.wf = true) (hfits : r.Fits op vis s.latch)

include hvalid hmem hfits

theorem readWord_dst_storeResult {i : Nat} (hi : i < r.dst.length) :
    (storeResult op r s).mem.readWord (s.latch.dstAddr.toNat + 4 * i) = r.dst[i] :=
  readWord_dst_of_valid hvalid hmem hfits.dst hfits.vis hi

theorem visual_storeResult {i : Nat} (hvis : vis = true) (hi : i < r.vis.length) : visual s (storeResult op r s) i = r.vis[i] :=
  readWord_vis_of_valid hvalid hmem hfits.vis hvis hi

end

theorem storeResult_wf {s : State} (hmem : s.mem.wf = true) (op : Op) (r : Result) : (storeResult op r s).mem.wf = true :=
  Memory.wf_writeWords (Memory.wf_writeWords hmem _ _) _ _

/-- The visual words and DEGEN a command with VIS = 1 stores are `norm` of the destination words it stores (44_spectral_mask.md R187). -/
theorem norm_of_storeResult_spectral {op : Op} {s : State} {dst : List Word} {n : Nat}
    (hvalid : validateOperands s.cfg op true s.latch = none) (hmem : s.mem.wf = true)
    (hfits : (spectralResult true dst).Fits op true s.latch) (hlen : dst.length = n) {c : Nat → Word}
    (hc : c = fun k => (storeResult op (spectralResult true dst) s).mem.readWord (s.latch.dstAddr.toNat + 4 * k)) :
    (storeResult op (spectralResult true dst) s).degen = normDegen c n ∧
      ∀ k < n, visual s (storeResult op (spectralResult true dst) s) k = normWord c n k := by
  have hnorm : normWords dst = ((List.range n).map (normWord c n), normDegen c n) := by
    refine normWords_of_getElem hlen fun i hi => ?_
    rw [hc]
    exact readWord_dst_storeResult hvalid hmem hfits hi
  have hwords : (spectralResult true dst).vis = (List.range n).map (normWord c n) := congrArg Prod.fst hnorm
  refine ⟨congrArg Prod.snd hnorm, fun k hk => ?_⟩
  rw [visual_storeResult hvalid hmem hfits rfl (by simpa [hwords] using hk)]
  simp [hwords]

end Sys2Proof.Machine
end

section
/-! The statements about the masks, NORMALIZE and the visual output (44_spectral_mask.md R180 to R184, R187, R188). -/

namespace Sys2Proof.Machine

open Sys2Proof.Reference

/-! ### The masks -/

/-- A running spectral command whose destination is a grid completes, and element (u, v) of its destination is the grid's value there. -/
theorem execCommand_spectral_grid {op : Op} {vis : Bool} {s : State} {compute : Config → Params → Memory → Result}
    {f : Nat → Nat → Word} (hside : windowSide op s.latch = 1)
    (hcompute : compute s.cfg s.latch s.mem = spectralResult vis (grid (W s) (H s) f))
    (hrun : Running op vis s) (hmem : s.mem.wf = true) :
    Completed op vis s (execCommand op vis compute s) ∧ (vis = false → (execCommand op vis compute s).degen = false) ∧
      ∀ u v, u < W s → v < H s → output s (execCommand op vis compute s) (W s) u v = f u v := by
  have hfits : (spectralResult vis (grid (W s) (H s) f)).Fits op vis s.latch := spectralResult_fits vis hside (length_grid ..).le
  rw [execCommand_of_running hrun, hcompute]
  refine ⟨storeResult_completed s hfits.dst hfits.vis, fun hvis => ?_, fun u v hu hv => ?_⟩
  · rw [hvis]
    rfl
  · have hi : v * W s + u < (spectralResult vis (grid (W s) (H s) f)).dst.length := by simpa using grid_index_lt hu hv
    refine (readWord_dst_storeResult hrun.valid hmem hfits hi).trans ?_
    simp only [spectralResult_dst, getElem_grid _ hu hv]

theorem outside_iff (l : Params) (u v : Nat) : outside l u v = true ↔ l.radius.toNat ^ 2 < u ^ 2 + v ^ 2 := by
  simp only [outside, decide_eq_true_eq, sq]

theorem exec_lowpass (vis : Bool) (s : State) :
    exec (if vis then .lowpassVis else .lowpass) s = .next (execCommand .lowpass vis (lowpassResult vis) s) := by cases vis <;> rfl

theorem exec_highpass (vis : Bool) (s : State) :
    exec (if vis then .highpassVis else .highpass) s = .next (execCommand .highpass vis (highpassResult vis) s) := by
  cases vis <;> rfl

/-- Settles O29: the stored grid is the mask's, and `outside` is the comparison of the squares. -/
theorem lowpassOutput : Obligations.LowpassOutput := by
  intro vis s hrun hmem
  obtain ⟨hcompleted, hdegen, hout⟩ := execCommand_spectral_grid (compute := lowpassResult vis)
    (f := fun u v => if outside s.latch u v then 0 else source s u v) rfl rfl hrun hmem
  refine ⟨_, exec_lowpass vis s, hcompleted, hdegen, fun u v hu hv => ?_⟩
  simp only [hout u v hu hv, outside_iff]

/-- Settles O30: the stored grid is the mask's, with the cases of LOWPASS exchanged. -/
theorem highpassOutput : Obligations.HighpassOutput := by
  intro vis s hrun hmem
  obtain ⟨hcompleted, hdegen, hout⟩ := execCommand_spectral_grid (compute := highpassResult vis)
    (f := fun u v => if outside s.latch u v then source s u v else 0) rfl rfl hrun hmem
  refine ⟨_, exec_highpass vis s, hcompleted, hdegen, fun u v hu hv => ?_⟩
  simp only [hout u v hu hv, outside_iff, ← not_lt, ite_not]

/-- Settles O35: the two masks make the same comparison. -/
theorem masksAreComplements : Obligations.MasksAreComplements := by
  intro s hlow hhigh hmem
  obtain ⟨a, ha, -, -, hlowpass⟩ := lowpassOutput false s hlow hmem
  obtain ⟨b, hb, -, -, hhighpass⟩ := highpassOutput false s hhigh hmem
  refine ⟨a, b, ha, hb, fun u v hu hv => ?_⟩
  rw [hlowpass u v hu hv, hhighpass u v hu hv]
  rcases lt_or_ge (s.latch.radius.toNat ^ 2) (u ^ 2 + v ^ 2) with hout | hin
  · exact .inl ⟨if_pos hout, if_neg hout.not_ge⟩
  · exact .inr ⟨if_neg hin.not_gt, if_pos hin⟩

/-- The two masks have the same operands. -/
theorem running_lowpass_of_highpass {s : State} (h : Running .highpass false s) : Running .lowpass false s :=
  ⟨h.busy, h.valid, h.admitted, h.untorn⟩

/-- Settles O36: the far corner is the element farthest from the origin. -/
theorem maskThreshold : Obligations.MaskThreshold := by
  intro s hhigh hmem
  obtain ⟨a, ha, -, -, hhighpass⟩ := highpassOutput false s hhigh hmem
  obtain ⟨b, hb, -, -, hlowpass⟩ := lowpassOutput false s (running_lowpass_of_highpass hhigh) hmem
  obtain ⟨hW, hH, -⟩ := image_of_valid hhigh.valid
  refine ⟨a, b, ha, hb, fun hreach u v hu hv => ?_, fun hshort => ?_⟩
  · have hin : u ^ 2 + v ^ 2 ≤ s.latch.radius.toNat ^ 2 :=
      (Nat.add_le_add (Nat.pow_le_pow_left (Nat.le_sub_one_of_lt hu) 2) (Nat.pow_le_pow_left (Nat.le_sub_one_of_lt hv) 2)).trans hreach
    rw [hhighpass u v hu hv, hlowpass u v hu hv]
    exact ⟨if_pos hin, if_neg hin.not_gt⟩
  · have hu : W s - 1 < W s := Nat.sub_one_lt_of_lt hW
    have hv : H s - 1 < H s := Nat.sub_one_lt_of_lt hH
    rw [hhighpass _ _ hu hv, hlowpass _ _ hu hv]
    exact ⟨if_neg hshort.not_ge, if_pos hshort⟩

/-! ### NORMALIZE and the visual output -/

theorem normalizeResult_eq (s : State) :
    normalizeResult s.cfg s.latch s.mem =
      ⟨(List.range (W s * H s)).map (normWord (coef s) (W s * H s)), [], normDegen (coef s) (W s * H s)⟩ := by
  have hnorm : normWords (coefficients s.latch s.mem) = _ := normWords_map_range (coef s) (W s * H s)
  rw [normalizeResult, hnorm]

/-- Settles O31: the stored words are `norm` of the coefficients in element order. -/
theorem normalizeOutput : Obligations.NormalizeOutput := by
  intro s hrun hmem
  have hfits := normalizeResult_fits s.cfg s.latch s.mem
  have hexec : exec .normalize s = .next (storeResult .normalize (normalizeResult s.cfg s.latch s.mem) s) :=
    congrArg Host.Outcome.next (execCommand_of_running hrun normalizeResult)
  rw [normalizeResult_eq] at hfits hexec
  refine ⟨_, hexec, storeResult_completed s hfits.dst hfits.vis, rfl, fun i hi => ?_⟩
  rw [readWord_dst_storeResult hrun.valid hmem hfits (by simpa using hi), List.getElem_map, List.getElem_range]

theorem mem_spectral_of_vis {i : Instr} {op : Op} (h : commandOp i = some (op, true)) : op ∈ [Op.dct, Op.lowpass, Op.highpass] := by
  cases i <;> cases h <;> decide

/-- DCT and the masks are EXEC of a spectral result, whose destination has one word for each pixel (44_spectral_mask.md R187). -/
theorem exec_spectral {i : Instr} {op : Op} {vis : Bool} (h : commandOp i = some (op, vis))
    (hop : op ∈ [Op.dct, Op.lowpass, Op.highpass]) :
    ∃ dst : Config → Params → Memory → List Word,
      (∀ s, exec i s = .next (execCommand op vis (fun c l m => spectralResult vis (dst c l m)) s)) ∧
      (∀ c l m, (spectralResult vis (dst c l m)).Fits op vis l) ∧
      ∀ c l m, c.wf = true → (dst c l m).length = l.width.toNat * l.height.toNat := by
  cases i <;> cases h
  case dct | dctVis =>
    refine ⟨spectrum, fun _ => rfl, dctResult_fits _, fun _ _ _ hc => ?_⟩
    rw [spectrum, dctCols, flatten_fanOut_eq_grid (numWorkers_pos_of_wf hc), length_grid, Nat.mul_comm]
  case lowpass | lowpassVis => exact ⟨_, fun _ => rfl, lowpassResult_fits _, fun _ _ _ _ => by rw [length_grid, Nat.mul_comm]⟩
  case highpass | highpassVis => exact ⟨_, fun _ => rfl, highpassResult_fits _, fun _ _ _ _ => by rw [length_grid, Nat.mul_comm]⟩
  all_goals exact absurd hop (by decide)

/-- Settles O32: the visual words are `norm` of the stored destination words, which NORMALIZE reads as its coefficients; with VIS = 0
only the destination is stored. -/
theorem visualOutputIsNormalize : Obligations.VisualOutputIsNormalize := by
  constructor
  · intro i op s hcommand hrun hmem hcfg
    have hop := mem_spectral_of_vis hcommand
    obtain ⟨dst, hexec, hfits, hlen⟩ := exec_spectral hcommand hop
    obtain ⟨hdegen, hvisual⟩ := norm_of_storeResult_spectral hrun.valid hmem (hfits s.cfg s.latch s.mem) (hlen _ _ _ hcfg) rfl
    refine ⟨hop, _, (hexec s).trans (congrArg _ (execCommand_of_running hrun _)), ⟨hdegen, hvisual⟩,
      fun n hrun' hsame haddr hsize => ?_⟩
    obtain ⟨q, hexec', -, hdegen', hout⟩ := normalizeOutput n hrun' (hsame ▸ storeResult_wf hmem _ _)
    rw [hsize, show coef n = _ from funext fun k => by rw [coef, hsame, haddr]] at hdegen' hout
    exact ⟨q, hexec', hdegen'.trans hdegen.symm, fun k hk => (hout k hk).trans (hvisual k hk).symm⟩
  · intro i op s hcommand hop hrun
    obtain ⟨dst, hexec, hfits, -⟩ := exec_spectral hcommand hop
    obtain ⟨hdst, hvis⟩ := hfits s.cfg s.latch s.mem
    refine ⟨_, (hexec s).trans (congrArg _ (execCommand_of_running hrun _)), rfl, fun a ha => ?_⟩
    exact (storeResult_completed s hdst hvis).2 a (by simpa [outsideOutputs, outputRanges] using ha)

end Sys2Proof.Machine
end

section
/-! SUPPORT. The bounds of `norm` (44_spectral_mask.md R185): each is its initial infinity or a coefficient, and no
coefficient lies beyond it. -/

namespace Sys2Proof.Machine

open Sys2Proof.Reference

/-! ### A scan for the best element -/

/-- The scan of R185 for either bound: an element replaces the value held where it is better. `normLo` is this scan by `flt` from +Inf,
`normHi` the one by `fgt` from -Inf. -/
def scanBest (better : F32 → F32 → Bool) (init : F32) (c : Nat → F32) (n : Nat) : F32 :=
  (List.range n).foldl (fun best i => if better (c i) best then c i else best) init

section

variable {better : F32 → F32 → Bool} {init : F32} {c : Nat → F32}
  (htrans : ∀ {x y z}, better x y = true → better y z = true → better x z = true)

theorem scanBest_succ (n : Nat) :
    scanBest better init c (n + 1) =
      if better (c n) (scanBest better init c n) then c n else scanBest better init c n := by
  rw [scanBest, List.range_succ, List.foldl_append]
  rfl

include htrans

/-- The value held at the end is the initial one, or an element better than that. -/
theorem scanBest_cases (n : Nat) :
    scanBest better init c n = init ∨ ∃ i < n, scanBest better init c n = c i ∧ better (c i) init = true := by
  induction n with
  | zero => exact .inl rfl
  | succ n ih =>
    rw [scanBest_succ]
    split_ifs with hbetter
    · refine .inr ⟨n, n.lt_succ_self, rfl, ?_⟩
      rcases ih with hinit | ⟨i, -, hi, hibetter⟩
      · rwa [hinit] at hbetter
      · exact htrans (hi ▸ hbetter) hibetter
    · exact ih.imp_right fun ⟨i, hi, h⟩ => ⟨i, hi.trans n.lt_succ_self, h⟩

/-- No element is better than the value held at the end. -/
theorem not_better_scanBest (hirrefl : ∀ x, better x x = false) {n i : Nat} (hi : i < n) :
    better (c i) (scanBest better init c n) = false := by
  induction n with
  | zero => exact absurd hi i.not_lt_zero
  | succ n ih =>
    rw [scanBest_succ]
    split_ifs with hbetter
    · rcases Nat.lt_succ_iff_lt_or_eq.mp hi with hlt | rfl
      · exact Bool.eq_false_iff.mpr fun h => absurd ((htrans h hbetter).symm.trans (ih hlt)) nofun
      · exact hirrefl _
    · rcases Nat.lt_succ_iff_lt_or_eq.mp hi with hlt | rfl
      · exact ih hlt
      · exact Bool.eq_false_iff.mpr hbetter

end

/-! ### The order of the comparisons -/

theorem flt_iff {a b : F32} : flt a b = true ↔ f32IsNaN a = false ∧ f32IsNaN b = false ∧ f32Signed a < f32Signed b := by
  simp [flt, and_assoc]

theorem flt_trans {a b c : F32} (hab : flt a b = true) (hbc : flt b c = true) : flt a c = true := by
  obtain ⟨ha, -, hlt⟩ := flt_iff.mp hab
  obtain ⟨-, hc, hlt'⟩ := flt_iff.mp hbc
  exact flt_iff.mpr ⟨ha, hc, hlt.trans hlt'⟩

theorem flt_irrefl (a : F32) : flt a a = false := Bool.eq_false_iff.mpr fun h => by
  obtain ⟨-, -, hlt⟩ := flt_iff.mp h
  exact lt_irrefl _ hlt

theorem f32Signed_le_of_not_flt {a b : F32} (ha : f32IsNaN a = false) (hb : f32IsNaN b = false) (h : flt a b = false) :
    f32Signed b ≤ f32Signed a :=
  not_lt.mp fun hlt => absurd (h.symm.trans (flt_iff.mpr ⟨ha, hb, hlt⟩)) nofun

/-- No value lies beyond an infinity (00_scope.md R14). -/
theorem f32Signed_bounds {a : F32} (hnan : f32IsNaN a = false) :
    f32Signed (infinity true) ≤ f32Signed a ∧ f32Signed a ≤ f32Signed (infinity false) := by
  have hle : f32Mag a ≤ f32Mag (infinity false) := by
    rw [f32Mag_eq, f32Mag_infinity, bitsMag_strictMono.le_iff_le]
    exact not_lt.mp (mt f32IsNaN_iff.mpr (Bool.eq_false_iff.mp hnan))
  have hmag : f32Mag (infinity true) = f32Mag (infinity false) := by rw [f32Mag_infinity, f32Mag_infinity]
  simp only [f32Signed, f32Sign_infinity, if_true, Bool.false_eq_true, if_false, hmag]
  split <;> omega

theorem not_flt_of_infinity_left (a : F32) : ¬flt (infinity false) a = true := fun h => by
  obtain ⟨-, hnan, hlt⟩ := flt_iff.mp h
  exact (f32Signed_bounds hnan).2.not_gt hlt

theorem not_flt_of_infinity_right (a : F32) : ¬flt a (infinity true) = true := fun h => by
  obtain ⟨hnan, -, hlt⟩ := flt_iff.mp h
  exact (f32Signed_bounds hnan).1.not_gt hlt

/-! ### The bounds -/

section

variable (c : Nat → F32) (n : Nat)

theorem normLo_cases : normLo c n = infinity false ∨ ∃ i < n, normLo c n = c i ∧ flt (c i) (infinity false) = true :=
  scanBest_cases (better := flt) flt_trans n

theorem normHi_cases : normHi c n = infinity true ∨ ∃ i < n, normHi c n = c i ∧ flt (infinity true) (c i) = true :=
  scanBest_cases (better := fgt) (fun hxy hyz => flt_trans hyz hxy) n

theorem f32IsNaN_normLo : f32IsNaN (normLo c n) = false := by
  rcases normLo_cases c n with h | ⟨i, -, h, hlt⟩ <;> rw [h]
  · exact f32IsNaN_infinity false
  · obtain ⟨hnan, -, -⟩ := flt_iff.mp hlt
    exact hnan

theorem f32IsNaN_normHi : f32IsNaN (normHi c n) = false := by
  rcases normHi_cases c n with h | ⟨i, -, h, hlt⟩ <;> rw [h]
  · exact f32IsNaN_infinity true
  · obtain ⟨-, hnan, -⟩ := flt_iff.mp hlt
    exact hnan

variable {n} {i : Nat} (hi : i < n) (hnan : f32IsNaN (c i) = false)

include hi hnan

theorem normLo_le : f32Signed (normLo c n) ≤ f32Signed (c i) :=
  f32Signed_le_of_not_flt hnan (f32IsNaN_normLo c n) (not_better_scanBest (better := flt) flt_trans flt_irrefl hi)

theorem le_normHi : f32Signed (c i) ≤ f32Signed (normHi c n) :=
  f32Signed_le_of_not_flt (f32IsNaN_normHi c n) hnan
    (not_better_scanBest (better := fgt) (fun hxy hyz => flt_trans hyz hxy) flt_irrefl hi)

end

/-- `hi > lo` exactly where some coefficient is below another (44_spectral_mask.md R186). -/
theorem flt_normLo_normHi_iff (c : Nat → F32) (n : Nat) :
    flt (normLo c n) (normHi c n) = true ↔ ∃ i < n, ∃ j < n, flt (c i) (c j) = true := by
  constructor
  · intro h
    rcases normLo_cases c n with hlo | ⟨i, hi, hlo, -⟩
    · exact absurd (hlo ▸ h) (not_flt_of_infinity_left _)
    rcases normHi_cases c n with hhi | ⟨j, hj, hhi, -⟩
    · exact absurd (hhi ▸ h) (not_flt_of_infinity_right _)
    exact ⟨i, hi, j, hj, hlo ▸ hhi ▸ h⟩
  · rintro ⟨i, hi, j, hj, h⟩
    obtain ⟨hinan, hjnan, hlt⟩ := flt_iff.mp h
    exact flt_iff.mpr ⟨f32IsNaN_normLo c n, f32IsNaN_normHi c n,
      ((normLo_le c hi hinan).trans_lt hlt).trans_le (le_normHi c hj hjnan)⟩

end Sys2Proof.Machine
end

section
/-! The statements about degenerate and extreme coefficients (44_spectral_mask.md R185, R186). -/

namespace Sys2Proof.Machine

open Sys2Proof.Reference

/-! ### Degenerate coefficients -/

theorem normDegen_iff (c : Nat → F32) (n : Nat) : normDegen c n = true ↔ ∀ i j, i < n → j < n → flt (c i) (c j) = false := by
  have hrange := not_congr (flt_normLo_normHi_iff c n)
  push Not at hrange
  simp only [Bool.not_eq_true] at hrange
  rw [normDegen, Bool.not_eq_true', fgt, hrange]
  exact ⟨fun h i j hi hj => h i hi j hj, fun h i hi j hj => h i j hi hj⟩

theorem normWord_of_degen {c : Nat → F32} {n : Nat} (h : normDegen c n = true) (i : Nat) : normWord c n i = 0 :=
  if_neg (by simpa [normDegen] using h)

/-- Settles O37: the bounds are the least and the greatest coefficient that is no NaN. -/
theorem degenerateNormalize : Obligations.DegenerateNormalize := by
  intro s hrun hmem
  obtain ⟨t, hexec, hcompleted, hdegen, hout⟩ := normalizeOutput s hrun hmem
  refine ⟨t, hexec, congrArg State.done hcompleted.1, hdegen ▸ normDegen_iff _ _, fun h i hi => ?_⟩
  rw [hout i hi, normWord_of_degen (hdegen.symm.trans h)]

/-! ### Differences -/

theorem natAbs_f32Signed (a : F32) : (f32Signed a).natAbs = f32Mag a := by
  rw [f32Signed]
  split_ifs <;> omega

theorem finiteF32_of_signed_eq {a b : F32} (h : f32Signed a = f32Signed b) (hb : FiniteF32 b) : FiniteF32 a := by
  have hmag : bitsMag (f32Bits a) = bitsMag (f32Bits b) := by
    rw [← f32Mag_eq, ← f32Mag_eq, ← natAbs_f32Signed, ← natAbs_f32Signed, h]
  rwa [finiteF32_iff, bitsMag_strictMono.injective hmag, ← finiteF32_iff]

/-- A finite sum has finite terms. -/
theorem finiteF32_of_fadd {a b : F32} (h : FiniteF32 (fadd a b)) : FiniteF32 a ∧ FiniteF32 b := by
  have hfinite {x : F32} (hnan : ¬f32IsNaN x = true) (hinf : ¬f32IsInf x = true) : FiniteF32 x := by
    rw [f32IsNaN_iff] at hnan
    rw [f32IsInf_iff] at hinf
    exact finiteF32_iff.mpr (by omega)
  have hnanResult : ¬FiniteF32 f32NaN := fun hfin => absurd ((f32IsNaN_of_finite hfin).symm.trans f32IsNaN_f32NaN) nofun
  have hinfResult {x : F32} (hinf : f32IsInf x = true) : ¬FiniteF32 x := fun hfin =>
    absurd ((f32IsInf_of_finite hfin).symm.trans hinf) nofun
  simp only [fadd] at h
  split_ifs at h with hnan ha hopposite hb hzero
  · exact absurd h hnanResult
  · exact absurd h hnanResult
  · exact absurd h (hinfResult ha)
  · exact absurd h (hinfResult hb)
  all_goals
    rw [Bool.or_eq_true, not_or] at hnan
    exact ⟨hfinite hnan.1 ha, hfinite hnan.2 hb⟩

theorem finiteF32_of_fsub {a b : F32} (h : FiniteF32 (fsub a b)) : FiniteF32 a ∧ FiniteF32 b := by
  obtain ⟨ha, hb⟩ := finiteF32_of_fadd h
  exact ⟨ha, finiteF32_f32Neg.mp hb⟩

theorem fsub_of_finite {a b : F32} (ha : FiniteF32 a) (hb : FiniteF32 b) :
    fsub a b = f32Pack (sumSign a (f32Neg b)) (roundMag (f32Signed a - f32Signed b).natAbs 1) := by
  rw [fsub, fadd_of_finite ha (finiteF32_f32Neg.mpr hb), f32Signed_f32Neg, ← sub_eq_add_neg]

/-- A difference that is not zero depends on the values alone, and not on the signs of zeros. -/
theorem fsub_congr_left {a a' b : F32} (ha : FiniteF32 a) (ha' : FiniteF32 a') (hb : FiniteF32 b) (h : f32Signed a = f32Signed a')
    (hne : f32Signed a' ≠ f32Signed b) : fsub a b = fsub a' b := by
  have hsum : ¬f32Signed a' + f32Signed (f32Neg b) = 0 := by
    rw [f32Signed_f32Neg]
    omega
  rw [fsub_of_finite ha hb, fsub_of_finite ha' hb, sumSign, sumSign, h, if_neg hsum, if_neg hsum]

theorem zeroF32_fsub {a b : F32} (ha : FiniteF32 a) (hb : FiniteF32 b) (h : f32Signed a = f32Signed b) : ZeroF32 (fsub a b) := by
  rw [ZeroF32, fsub_of_finite ha hb, h, sub_self, Int.natAbs_zero, roundMag_zero, f32Bits_f32Pack _ (by decide)]

/-- No positive number of units of 2^-149 rounds to zero. -/
theorem roundMag_one_ne_zero {n : Nat} (hn : n ≠ 0) : roundMag n 1 ≠ 0 := by
  obtain ⟨r, hr, hnear⟩ := exists_nearestBits_roundMag n one_pos
  have hpos : (1 : ℝ) ≤ n := by exact_mod_cast Nat.one_le_iff_ne_zero.mpr hn
  have hr0 : r ≠ 0 := by
    rintro rfl
    have hcloser := (hnear 1).1
    rw [bitsMag_zero, show bitsMag 1 = 1 from rfl, Nat.cast_zero, Nat.cast_one, div_one, zero_sub, abs_neg, abs_of_nonneg (by linarith),
      abs_sub_comm, abs_of_nonneg (by linarith)] at hcloser
    linarith
  omega

theorem f32Mag_fsub_ne_zero {a b : F32} (ha : FiniteF32 a) (hb : FiniteF32 b) (hne : f32Signed a ≠ f32Signed b) :
    f32Mag (fsub a b) ≠ 0 := by
  have hround : roundMag (f32Signed a - f32Signed b).natAbs 1 ≠ 0 := roundMag_one_ne_zero (by omega)
  have hle := roundMag_le (f32Signed a - f32Signed b).natAbs 1
  rw [fsub_of_finite ha hb, f32Mag_eq, f32Bits_f32Pack _ (by omega), ← bitsMag_zero]
  exact mt (fun h => bitsMag_strictMono.injective h) hround

/-! ### Quotients -/

/-- 0x3F800000 is 1.0. -/
theorem fdiv_self {a : F32} (ha : FiniteF32 a) (h0 : f32Mag a ≠ 0) : fdiv a a = 0x3F800000 := by
  have hone : bitsMag 0x3F800000 = 2 ^ 149 := by decide
  rw [fdiv_of_finite ha ha h0, bne_self_eq_false, ← hone, roundMag_mul_bitsMag (by decide) (Nat.pos_of_ne_zero h0)]
  rfl

theorem zeroF32_fdiv {z a : F32} (hz : ZeroF32 z) (ha : FiniteF32 a) (h0 : f32Mag a ≠ 0) : ZeroF32 (fdiv z a) := by
  rw [ZeroF32, fdiv_of_finite hz.finite ha h0, hz.mag, Nat.zero_mul, roundMag_zero, f32Bits_f32Pack _ (by decide)]

/-! ### Extreme elements -/

/-- A NaN element maps to 0. -/
theorem normElement_of_isNaN {x : F32} (lo rng : F32) (hnan : f32IsNaN x = true) : normElement lo rng x = 0 := by
  have hdiff : f32IsNaN (fsub x lo) = true := fadd_isNaN (.inl hnan)
  have hscaled : f32IsNaN (fmul (fdiv (fsub x lo) rng) (f32OfNat 255)) = true := fmul_isNaN (.inl (fdiv_isNaN (.inl hdiff)))
  rw [normElement, satU8, if_pos hscaled]
  rfl

section

variable {lo hi x : F32} (hlo : FiniteF32 lo) (hhi : FiniteF32 hi) (hlt : f32Signed lo < f32Signed hi)
  (hrange : FiniteF32 (fsub hi lo))

include hlo hhi hlt hrange

/-- The element equal to `hi` maps to 255: its quotient is exactly 1. -/
theorem normElement_of_eq_hi (h : f32Signed x = f32Signed hi) : normElement lo (fsub hi lo) x = gray 255 := by
  have hone : fdiv (fsub x lo) (fsub hi lo) = 0x3F800000 := by
    rw [fsub_congr_left (finiteF32_of_signed_eq h hhi) hhi hlo h hlt.ne', fdiv_self hrange (f32Mag_fsub_ne_zero hhi hlo hlt.ne')]
  rw [normElement, hone, fmul_one_left (f32OfNat_exact (by decide)).1]
  exact congrArg gray (satU8_f32OfNat 255)

/-- The element equal to `lo` maps to 0: its quotient is a zero. -/
theorem normElement_of_eq_lo (h : f32Signed x = f32Signed lo) : normElement lo (fsub hi lo) x = 0 := by
  have hquotient : ZeroF32 (fdiv (fsub x lo) (fsub hi lo)) :=
    zeroF32_fdiv (zeroF32_fsub (finiteF32_of_signed_eq h hlo) hlo h) hrange (f32Mag_fsub_ne_zero hhi hlo hlt.ne')
  rw [normElement, fmul_comm, satU8_of_zeroF32 (zeroF32_fmul (f32OfNat_exact (by decide)).1 hquotient)]
  rfl

end

/-- Settles O38: a finite range has finite bounds. -/
theorem normalizeExtremes : Obligations.NormalizeExtremes := by
  intro s hrun hmem hgt hrange
  obtain ⟨t, hexec, -, -, hout⟩ := normalizeOutput s hrun hmem
  obtain ⟨hhi, hlo⟩ := finiteF32_of_fsub hrange
  obtain ⟨-, -, hlt⟩ := flt_iff.mp hgt
  refine ⟨t, hexec, fun i hi => ?_⟩
  rw [hout i hi, normWord_eq_normElement, if_pos hgt]
  exact ⟨normElement_of_isNaN _ _, fun _ => normElement_of_eq_hi hlo hhi hlt hrange, fun _ => normElement_of_eq_lo hlo hhi hlt hrange⟩

end Sys2Proof.Machine
end

section
/-! The statements about exceptions: a soft reset against EXEC (60_exceptions.md R201) and the interrupt line (R203). -/

namespace Sys2Proof.Machine

open Sys2Proof.Reference

/-! ### A soft reset before and after EXEC -/

/-- While IDLE a reset aborts nothing, so memory stays (70_reset_and_hazards.md R220, R221). -/
theorem resetBlock_of_idle {s : State} (h : s.seq = .idle) : resetBlock s = resetRegisters s := by
  have habort : abortCommand s = s := by rw [abortCommand, h]
  rw [resetBlock_eq, habort]
  rfl

/-- EXEC changes memory, the count of free words and registers of the block, which a reset overwrites; the rest it leaves alone. -/
theorem resetRegisters_execCommand (op : Op) (vis : Bool) (compute : Config → Params → Memory → Result) (s : State) :
    resetRegisters (execCommand op vis compute s) = { resetRegisters s with
      mem := (execCommand op vis compute s).mem
      draws := (execCommand op vis compute s).draws } := by
  rcases execCommand_cases op vis compute s with
    ⟨-, heq⟩ | ⟨e, -, -, heq⟩ | ⟨-, -, -, heq⟩ | ⟨-, -, -, -, heq⟩ | ⟨-, heq⟩ <;> rw [heq] <;> rfl

theorem engineTurn_of_idle {s : State} (h : s.seq = .idle) : engineTurn s = .next s := by
  rw [engineTurn, h]

/-- Settles O17: EXEC leaves the sequencer IDLE, where a reset keeps memory; a reset leaves it IDLE, where EXEC is not enabled. That LATCH
is 0 is log 6. -/
theorem softResetAndExecOrders : Obligations.SoftResetAndExecOrders := by
  intro s i _ hdec
  obtain ⟨op, vis, hop⟩ := commandOp_of_decodeCommand hdec
  obtain ⟨compute, hexec⟩ := exec_eq_execCommand hop s
  have hreset := resetBlock_of_idle (execCommand_seq op vis compute s)
  exact ⟨_, _, resetBlock s, hexec, congrArg Host.Outcome.next hreset, rfl, rfl, engineTurn_of_idle (resetBlock_seq s),
    resetRegisters_execCommand op vis compute s, resetBlock_eq s⟩

/-! ### The interrupt line -/

theorem irq_iff (s : State) : irq s = true ↔ s.irqEn = true ∧ (s.done = true ∨ s.err = true) := by
  rw [irq, Bool.and_eq_true, Bool.or_eq_true]

theorem irq_of_flag {s : State} (h : s.done = true ∨ s.err = true) : irq s = s.irqEn := by
  rw [irq, (Bool.or_eq_true _ _).mpr h, Bool.and_true]

/-- With either completion IRQ equals IRQ_EN: one sets DONE, the other ERR (40_command_control.md R112, R113). -/
theorem irq_execCommand {op : Op} {vis : Bool} {s : State} (hbusy : s.seq = .busy)
    (compute : Config → Params → Memory → Result) : irq (execCommand op vis compute s) = s.irqEn := by
  rcases execCommand_cases op vis compute s with
    ⟨hidle, -⟩ | ⟨e, -, -, heq⟩ | ⟨-, -, -, heq⟩ | ⟨-, -, -, -, heq⟩ | ⟨-, heq⟩
  · exact nomatch hidle.symm.trans hbusy
  · rw [heq]; exact irq_of_flag (.inr rfl)
  · rw [heq]; exact irq_of_flag (.inr rfl)
  · rw [heq]; exact irq_of_flag (.inl rfl)
  · rw [heq]; exact irq_of_flag (.inl rfl)

/-- Settles O18: a completion sets one of the two flags; START, CLEAR and a reset clear both. -/
theorem irqLine : Obligations.IrqLine := by
  intro s
  refine ⟨irq_iff s, fun g => ?clear, fun hidle e => ?start, ⟨_, rfl, Bool.false_and _⟩, fun hflag => ⟨_, rfl, irq_of_flag hflag⟩,
    ⟨_, rfl, irq_of_flags_clear (resetBlock_done s) (resetBlock_err s)⟩, fun i op vis hop hbusy => ?completes⟩
  case clear => exact ⟨clearFlags true true g s, rfl, irq_of_flags_clear (by simp) (by simp)⟩
  case start =>
    obtain ⟨t, hexec, -, -, hirq⟩ := startAccepted s e hidle
    exact ⟨t, hexec, hirq⟩
  case completes =>
    obtain ⟨compute, hexec⟩ := exec_eq_execCommand hop s
    exact ⟨_, hexec, irq_execCommand hbusy compute⟩

end Sys2Proof.Machine
end

section
/-! The statements about the reset (70_reset_and_hazards.md R220 to R222): the registers, and the ranges of the command it aborts. -/

namespace Sys2Proof.Machine

open Sys2Proof.Reference

variable {s : State} {op : Op} {vis : Bool}

/-- Settles O15: while IDLE there is no command to abort, and in any state the registers are reset. LATCH 0 is log 6, what a reset keeps
is log 22. -/
theorem softResetRegisters : Obligations.SoftResetRegisters :=
  ⟨fun _ hidle => congrArg Host.Outcome.next (resetBlock_of_idle hidle), fun s => ⟨_, rfl, resetBlock_eq s⟩,
    fun _ _ hagenda => step_of_agenda hagenda⟩

/-! ### The aborted command -/

theorem abortCommand_of_latched (hbusy : s.seq = .busy) (hcmd : latchedCommand s.latch = some (op, vis)) :
    abortCommand s = scrambleOutputs op vis s := by
  simp only [abortCommand, hbusy, hcmd]

theorem abortCommand_of_illegal (hcmd : latchedCommand s.latch = none) : abortCommand s = s := by
  rcases abortCommand_cases s with ⟨heq, -⟩ | ⟨op, vis, -, hsome, -⟩
  · exact heq
  · exact nomatch hcmd.symm.trans hsome

theorem latchedCommand_eq_none {l : Params} (hill : ∀ i, decodeCommand l.cmd ≠ .ok i) : latchedCommand l = none := by
  refine Option.eq_none_iff_forall_ne_some.mpr fun ⟨op, vis⟩ hsome => ?_
  obtain ⟨i, hdec, -⟩ := latchedCommand_eq_some_iff.mp hsome
  exact hill i hdec

/-! ### Bytes of the freed ranges -/

/-- Free words fill the element range they are written to, byte by byte, as far as the address space goes (20_memory.md R60, R61). -/
theorem read_writeWords_freeWords {m : Memory} (hmem : m.wf = true) (base k n : Nat) {a : Nat} (ha : a < 2 ^ 32) :
    (m.writeWords base (freeWords k n)).read a =
      if AddrRange.contains (elementRange base n) a = true then freeByteAt k (a - base) else m.read a := by
  split_ifs with hin
  · simp only [AddrRange.contains_eq_true, elementRange] at hin
    obtain ⟨off, rfl⟩ := Nat.exists_eq_add_of_le hin.1
    have hbyte := Memory.read_writeWords hmem (a := base) (i := off / 4) (j := off % 4) (ws := freeWords k n)
      (by rw [length_freeWords]; omega) (by omega) (by omega)
    rw [Nat.add_assoc, Nat.div_add_mod, getElem_freeWords] at hbyte
    rw [hbyte, Nat.add_sub_cancel_left, freeByteAt]
  · simp only [Bool.not_eq_true, AddrRange.contains_eq_false, elementRange] at hin
    exact Memory.read_writeWords_of_not_mem m _ (by rwa [length_freeWords])

/-- The visual words that are written make up the visual range, and with VIS = 0 there is none. -/
theorem contains_visCount_iff {l : Params} {a : Nat} :
    AddrRange.contains (elementRange l.visAddr.toNat (visCount vis l)) a = true ↔
      vis = true ∧ AddrRange.contains (visRange l) a = true := by
  cases vis with
  | false =>
    simp only [AddrRange.contains_eq_true, elementRange, visCount, Bool.false_eq_true, if_false, false_and, iff_false]
    omega
  | true => simp only [visRange, visCount, if_true, true_and]

/-- The visual words are written last, so a byte that both ranges hold is theirs (log 11). -/
theorem scrambleOutputs_rangesFree (hmem : s.mem.wf = true) (op : Op) (vis : Bool) :
    RangesFree op vis s (scrambleOutputs op vis s) := by
  intro a ha
  rw [scrambleOutputs_mem, read_writeWords_freeWords (Memory.wf_writeWords hmem _ _) _ _ _ ha,
    read_writeWords_freeWords hmem _ _ _ ha]
  exact if_congr contains_visCount_iff rfl rfl

/-- Settles O16: the abort frees the ranges of a legal word and does nothing for an illegal one (logs 11 and 12); LATCH 0 is log 6, what a
reset keeps is log 22. -/
theorem resetAbortsCommand : Obligations.ResetAbortsCommand := by
  refine ⟨fun s i op vis hbusy hmem hdec hop => ⟨resetBlock s, rfl, rfl, ?_⟩, fun s _ hill => ?_⟩
  · have habort := abortCommand_of_latched hbusy (latchedCommand_eq_some_iff.mpr ⟨i, hdec, hop⟩)
    rw [RangesFree, OutputsFree, resetBlock_mem, habort]
    exact ⟨scrambleOutputs_rangesFree hmem op vis, scrambleOutputs_outputsFree hmem,
      fun _ ha => scrambleOutputs_read_of_outside s ha⟩
  · have habort := abortCommand_of_illegal (latchedCommand_eq_none hill)
    refine congrArg Host.Outcome.next ?_
    rw [resetBlock_eq, habort]
    rfl

end Sys2Proof.Machine
end

section
/-! The statements about hazards (70_reset_and_hazards.md R226, R227, R230; 20_memory.md R82): a host's memory accesses beside a running
command, and what a command that was touched leaves behind. -/

namespace Sys2Proof.Machine

open Sys2Proof.Reference

/-! ### Protected ranges -/

theorem touches_iff {addr len : Nat} {rs : List AddrRange} :
    touches addr len rs = true ↔ ∃ k < len, ∃ r ∈ rs, AddrRange.contains r (addr + k) = true := by
  simp only [touches, List.any_eq_true, List.mem_range]
  exact ⟨fun ⟨r, hr, k, hk, hin⟩ => ⟨k, hk, r, hr, hin⟩, fun ⟨k, hk, r, hr, hin⟩ => ⟨r, hr, k, hk, hin⟩⟩

section

variable {s : State}

theorem protected_of_latched {op : Op} {vis : Bool} (hbusy : s.seq = .busy) (hcmd : latchedCommand s.latch = some (op, vis)) :
    protectedFromWrites s = inputRanges op s.latch ++ outputRanges op vis s.latch ∧
      protectedFromReads s = outputRanges op vis s.latch := by
  simp only [protectedFromWrites, protectedFromReads, hbusy, hcmd, and_self]

/-- Without a legal command running no address is protected (log 12). -/
theorem protected_eq_nil (hnone : s.seq = .idle ∨ latchedCommand s.latch = none) :
    protectedFromWrites s = [] ∧ protectedFromReads s = [] := by
  rcases hnone with hidle | hcmd
  · simp only [protectedFromWrites, protectedFromReads, hidle, and_self]
  · cases hseq : s.seq <;> simp only [protectedFromWrites, protectedFromReads, hseq, hcmd, and_self]

/-! ### Accesses to memory -/

variable {addr : Word} {data : List Byte} {len : Nat} {rest : List Turn}

theorem hitsWindow_eq_false (hout : ¬ inWindow s addr.toNat len) : hitsWindow s.cfg addr.toNat len = false :=
  Bool.eq_false_iff.mpr fun hhits => hout (hitsWindow_iff_inWindow.mp hhits)

theorem hostRead_of_outside (hout : ¬ inWindow s addr.toNat len) : hostRead addr len s = hostMemRead addr.toNat len s := by
  simp only [hostRead, hitsWindow_eq_false hout, Bool.false_eq_true, if_false]

theorem hostWrite_of_outside (hout : ¬ inWindow s addr.toNat data.length) :
    hostWrite addr data s = hostMemWrite addr.toNat data s := by
  simp only [hostWrite, hitsWindow_eq_false hout, Bool.false_eq_true, if_false]

theorem hostMemRead_of_past {a : Nat} (hpast : 2 ^ 32 < a + len) : hostMemRead a len s = .fault .beyondAddressSpace :=
  if_pos hpast

theorem hostMemWrite_of_past {a : Nat} (hpast : 2 ^ 32 < a + data.length) :
    hostMemWrite a data s = .fault .beyondAddressSpace :=
  if_pos hpast

theorem hostMemRead_of_free {a : Nat} (hfits : a + len ≤ 2 ^ 32) (hfree : touches a len (protectedFromReads s) = false) :
    hostMemRead a len s = .next { s with hostData := s.mem.readBytes a len } := by
  rcases hostMemRead_cases a len s with ⟨hpast, -⟩ | ⟨-, htouch, -⟩ | ⟨-, -, heq⟩
  · exact absurd hpast (Nat.not_lt.mpr hfits)
  · exact absurd (hfree.symm.trans htouch) nofun
  · exact heq

theorem hostMemRead_of_touch {a : Nat} (hfits : a + len ≤ 2 ^ 32) (htouch : touches a len (protectedFromReads s) = true) :
    hostMemRead a len s = .next (returnFree len (markHazard s)) := by
  rcases hostMemRead_cases a len s with ⟨hpast, -⟩ | ⟨-, -, heq⟩ | ⟨-, hfree, -⟩
  · exact absurd hpast (Nat.not_lt.mpr hfits)
  · exact heq
  · exact absurd (hfree.symm.trans htouch) nofun

theorem step_of_read (hagenda : s.agenda = .read addr len :: rest) (hout : ¬ inWindow s addr.toNat len) :
    step s = hostMemRead addr.toNat len (afterTurn s) := by
  rw [step_of_agenda hagenda]
  exact hostRead_of_outside (s := afterTurn s) hout

theorem step_of_write (hagenda : s.agenda = .write addr data :: rest) (hout : ¬ inWindow s addr.toNat data.length) :
    step s = hostMemWrite addr.toNat data (afterTurn s) := by
  rw [step_of_agenda hagenda]
  exact hostWrite_of_outside (s := afterTurn s) hout

/-- A write of memory always lands; inside a protected range it sets the marks (log 20). -/
theorem step_of_memWrite (hagenda : s.agenda = .write addr data :: rest) (hout : ¬ inWindow s addr.toNat data.length)
    (hfits : addr.toNat + data.length ≤ 2 ^ 32) :
    step s = .next { afterTurn s with
      mem := s.mem.writeBytes addr.toNat data
      hazard := s.hazard || touches addr.toNat data.length (protectedFromWrites s)
      torn := s.torn || touches addr.toNat data.length (protectedFromWrites s) } := by
  rw [step_of_write hagenda hout]
  rcases hostMemWrite_cases addr.toNat data (afterTurn s) with ⟨hpast, -⟩ | ⟨-, hazard, rfl, heq⟩
  · exact absurd hpast (Nat.not_lt.mpr hfits)
  · exact heq

end

/-- Settles O42. That an invalid command protects the ranges of the formulas is log 12, and that the write lands log 20. -/
theorem hostWriteHazard : Obligations.HostWriteHazard := by
  intro s rest addr data op vis hbusy hcmd hagenda hout hfits
  refine ⟨_, step_of_memWrite hagenda hout hfits, rfl, ?_⟩
  rw [Bool.or_eq_true, touches_iff, (protected_of_latched hbusy hcmd).1]

/-- Settles O43, by whether the read touches an output. That an invalid command protects the ranges of the formulas is log 12, and that the
read completes log 20. -/
theorem hostReadHazard : Obligations.HostReadHazard := by
  intro s rest addr len op vis hbusy hcmd hagenda hout hfits
  have hranges : protectedFromReads (afterTurn s) = outputRanges op vis s.latch := (protected_of_latched hbusy hcmd).2
  rw [step_of_read hagenda hout]
  cases htouch : touches addr.toNat len (outputRanges op vis s.latch) with
  | true =>
    have hin := touches_iff.mp htouch
    refine ⟨_, hostMemRead_of_touch hfits (hranges ▸ htouch), rfl, iff_of_true rfl (.inr hin), fun hfree => ?_⟩
    obtain ⟨k, hk, r, hr, hcontains⟩ := hin
    exact absurd ((hfree k hk r hr).symm.trans hcontains) nofun
  | false =>
    have hin := touches_iff.not.mp (Bool.eq_false_iff.mp htouch)
    exact ⟨_, hostMemRead_of_free hfits (hranges ▸ htouch), rfl, (or_iff_left hin).symm, fun _ => rfl⟩

/-- Settles O44: no range is protected, or the access has a byte beyond the address space. That illegal words have no ranges is log 12,
that the accesses complete log 20, and the fault log 16. -/
theorem idleHostAccess : Obligations.IdleHostAccess := by
  refine ⟨fun s rest addr data hnone hagenda hout hfits => ?write, fun s rest addr len hnone hagenda hout hfits => ?read,
    fun s rest addr data hagenda hout hpast => ?writePast, fun s rest addr len hagenda hout hpast => ?readPast,
    fun s rest addr mask value hagenda hout hpast => ?pollPast⟩
  case write =>
    rw [step_of_memWrite hagenda hout hfits, (protected_eq_nil hnone).1]
    simp only [touches, List.any_nil, Bool.or_false]
    rfl
  case read =>
    have hranges : protectedFromReads (afterTurn s) = [] := (protected_eq_nil hnone).2
    rw [step_of_read hagenda hout]
    exact hostMemRead_of_free hfits (by rw [hranges, touches, List.any_nil])
  case writePast =>
    rw [step_of_write hagenda hout]
    exact hostMemWrite_of_past hpast
  case readPast =>
    rw [step_of_read hagenda hout]
    exact hostMemRead_of_past hpast
  case pollPast =>
    rw [step_of_agenda hagenda, takeTurn, pollTurn, hostRead_of_outside (s := afterTurn s) hout, hostMemRead_of_past hpast]

/-! ### A torn command -/

theorem execCommand_of_torn {op : Op} {vis : Bool} {s : State} (hbusy : s.seq = .busy)
    (hvalid : validateOperands s.cfg op vis s.latch = none) (hadmitted : allAdmitted s.cfg op vis s.latch = true)
    (htorn : s.torn = true) (compute : Config → Params → Memory → Result) :
    execCommand op vis compute s = storeTorn op vis s := by
  simp only [execCommand, hbusy, hvalid, hadmitted, htorn, if_true]

/-- Only a command that normalises may report DEGEN (44_spectral_mask.md R184, R187). -/
theorem normalises_eq_false {op : Op} (hne : op ≠ .normalize) : normalises op false = false := by
  rw [normalises, Bool.false_or, beq_eq_false_iff_ne.mpr hne]

/-- Settles O45: a torn command stores free words in place of its result, and completes as any other (log 10). -/
theorem tornCommandGivesFreeWords : Obligations.TornCommandGivesFreeWords := by
  intro s i op vis hbusy hmem hop hvalid hadmitted htorn
  obtain ⟨compute, hexec⟩ := exec_eq_execCommand hop s
  rw [execCommand_of_torn hbusy hvalid hadmitted htorn] at hexec
  refine ⟨_, hexec, scrambleOutputs_outputsFree hmem hvalid, rfl, rfl, rfl, rfl, ?_, fun _ ha => scrambleOutputs_read_of_outside s ha⟩
  rintro rfl hne
  rw [storeTorn, completeOk_degen, normalises_eq_false hne, Bool.false_and]

end Sys2Proof.Machine
end

section
/-! The statements about every step (70_reset_and_hazards.md R230, R234; 30_encoding.md R86, R98): the marks and the parameters last, and a
running command ends. -/

namespace Sys2Proof.Machine

open Sys2Proof.Reference

variable {s t : State}

/-! ### The marks and the parameters -/

/-- t has the parameters of s and every mark that is set in s. -/
structure KeepsMarks (s t : State) : Prop where
  cfg : t.cfg = s.cfg
  hazard : s.hazard = true → t.hazard = true
  refused : s.refused = true → t.refused = true

theorem KeepsMarks.of_eq (hcfg : t.cfg = s.cfg) (hhazard : t.hazard = s.hazard) (hrefused : t.refused = s.refused) :
    KeepsMarks s t :=
  ⟨hcfg, hhazard.trans, hrefused.trans⟩

/-- EXEC leaves what a reset leaves, memory and free words apart (log 22). -/
theorem execCommand_keepsMarks (op : Op) (vis : Bool) (compute : Config → Params → Memory → Result) (s : State) :
    KeepsMarks s (execCommand op vis compute s) :=
  have hreset := resetRegisters_execCommand op vis compute s
  .of_eq (congrArg State.cfg hreset :) (congrArg State.hazard hreset :) (congrArg State.refused hreset :)

theorem TurnEffect.keepsMarks {turn : Turn} (heff : TurnEffect s turn t) : KeepsMarks s t := by
  induction heff with
  | engineIdle | illegal | read | clear | writeIgnored | setIrq | waitEnds | waitAgain => exact .of_eq rfl rfl rfl
  | exec op vis compute => exact execCommand_keepsMarks op vis compute s
  | readRefused | writeRefused => exact ⟨rfl, id, fun _ => rfl⟩
  | readHazard => exact ⟨rfl, fun _ => rfl, id⟩
  | memWrite => exact ⟨rfl, fun hmark => Bool.or_eq_true_iff.mpr (.inl hmark), id⟩
  | writeParam _ _ r v => exact .of_eq (writeParam_cfg s r v) (writeParam_hazard s r v) (writeParam_refused s r v)
  | softReset | reset => exact .of_eq (resetBlock_cfg s) (resetBlock_hazard s) (resetBlock_refused s)
  | start => exact .of_eq (startCommand_cfg _) (startCommand_hazard _) (startCommand_refused _)
  | pollEnds _ _ _ _ ih => exact ih
  | pollAgain _ _ _ _ ih => exact ⟨ih.cfg, ih.hazard, ih.refused⟩

/-- Settles O50, by the effects of a turn. That a reset keeps the marks is log 22. -/
theorem marksAndParametersLast : Obligations.MarksAndParametersLast := by
  intro s t hstep
  obtain ⟨hcfg, hhazard, hrefused⟩ := (step_effect hstep).keepsMarks
  exact ⟨hcfg, hhazard, hrefused⟩

/-! ### A completion -/

/-- t is s after a completion of either kind (40_command_control.md R112, R113). -/
structure Ended (s t : State) : Prop where
  idle : t.seq = .idle
  flag : t.done = true ∨ t.err = true
  cfg : t.cfg = s.cfg
  agenda : t.agenda = s.agenda

theorem execCommand_ended (hbusy : s.seq = .busy) (op : Op) (vis : Bool) (compute : Config → Params → Memory → Result) :
    Ended s (execCommand op vis compute s) := by
  rcases execCommand_cases op vis compute s with
    ⟨hidle, -⟩ | ⟨e, -, -, heq⟩ | ⟨-, -, -, heq⟩ | ⟨-, -, -, -, heq⟩ | ⟨-, heq⟩
  · exact nomatch hidle.symm.trans hbusy
  · rw [heq]; exact ⟨rfl, .inr rfl, rfl, rfl⟩
  · rw [heq]; exact ⟨rfl, .inr rfl, rfl, rfl⟩
  · rw [heq]; exact ⟨rfl, .inl rfl, rfl, rfl⟩
  · rw [heq]; exact ⟨rfl, .inl rfl, rfl, rfl⟩

/-- While BUSY the engine's turn completes the command, legal or not (70_reset_and_hazards.md R234). -/
theorem engineTurn_ends (hbusy : s.seq = .busy) : ∃ t, engineTurn s = .next t ∧ Ended s t := by
  obtain ⟨t, hturn⟩ := engineTurn_answers s
  refine ⟨t, hturn, ?_⟩
  cases engineTurn_effect hturn with
  | engineIdle hidle => exact nomatch hidle.symm.trans hbusy
  | illegal => exact ⟨rfl, .inr rfl, rfl, rfl⟩
  | exec op vis compute => exact execCommand_ended hbusy op vis compute

/-! ### A poll of STATUS for BUSY = 0 -/

/-- The poll's turn (30_encoding.md R98). -/
def busyPoll (s : State) : Turn := .poll (windowAddr s 0x014) 0x1 0x0

theorem busyPoll_congr (hcfg : t.cfg = s.cfg) : busyPoll t = busyPoll s := by
  simp only [busyPoll, windowAddr, hcfg]

/-- The state with the data of a read of STATUS in the host's hands. -/
def statusRead (s : State) : State := { s with hostData := wordBytes (statusWord s) }

theorem hostWord_statusRead (s : State) : hostWord (statusRead s) = statusWord s :=
  Memory.wordOfBytes_wordBytes (statusWord s)

theorem statusWord_and_one (s : State) : statusWord s &&& 0x1 = 0x0 ↔ s.seq = .idle := by
  have hbusy := statusWord_busy s
  have hmask : statusWord s &&& 0x1 = (BitVec.ofBool ((statusWord s).getLsbD 0)).setWidth 32 :=
    BitVec.and_one_eq_setWidth_ofBool_getLsbD
  rw [hmask]
  cases hseq : s.seq with
  | idle =>
    have hbit : (statusWord s).getLsbD 0 = false := Bool.eq_false_iff.mpr fun h => nomatch hseq.symm.trans (hbusy.mp h)
    rw [hbit]
    exact iff_of_true rfl rfl
  | busy =>
    rw [hbusy.mpr hseq]
    exact iff_of_false (by decide) nofun

/-- The poll reads STATUS once, and goes on while BUSY is 1. -/
theorem pollTurn_status (hwf : s.cfg.wf = true) :
    pollTurn (windowAddr s 0x014) 0x1 0x0 s =
      .next (if s.seq = .idle then statusRead s else again (busyPoll s) (statusRead s)) := by
  have hread : hostRead (windowAddr s 0x014) 4 s = .next (statusRead s) := hostRead_windowAddr hwf rfl (by decide)
  simp only [pollTurn, hread, hostWord_statusRead, statusWord_and_one, busyPoll]

theorem step_busyPoll (hwf : s.cfg.wf = true) {rest : List Turn} (hagenda : s.agenda = busyPoll s :: rest) :
    step s = .next (if s.seq = .idle then statusRead (afterTurn s) else again (busyPoll s) (statusRead (afterTurn s))) := by
  rw [step_of_agenda hagenda]
  exact pollTurn_status (s := afterTurn s) hwf

theorem run_succ {n : Nat} (hstep : step s = .next t) : Sys2Proof.core.run (n + 1) s = Sys2Proof.core.run n t := by
  simp only [Host.Core.run, core, hstep]

/-- Settles O52: the first read of the poll finds BUSY = 1 and gives the engine a turn (log 19), which completes the command (logs 1, 25);
the second finds BUSY = 0. -/
theorem commandTerminates : Obligations.CommandTerminates := by
  refine ⟨fun s hbusy hnil => ?_, fun s hwf hbusy hagenda => ?_⟩
  · obtain ⟨t, hturn, hended⟩ := engineTurn_ends (s := afterTurn s) hbusy
    exact ⟨t, (step_of_engineNext (.inl hnil)).trans hturn, hended.idle⟩
  · have hfirst := step_busyPoll hwf hagenda
    rw [hbusy, if_neg nofun] at hfirst
    obtain ⟨t, hturn, hended⟩ :=
      engineTurn_ends (s := afterTurn (again (busyPoll s) (statusRead (afterTurn s)))) hbusy
    have hcfg : t.cfg = s.cfg := hended.cfg
    have hsecond := (step_of_engineNext (.inr rfl)).trans hturn
    have hagenda' : t.agenda = [busyPoll t] :=
      calc t.agenda
          = busyPoll s :: s.agenda.tail := hended.agenda
        _ = [busyPoll s] := by rw [hagenda, List.tail_cons]
        _ = [busyPoll t] := by rw [busyPoll_congr hcfg]
    have hthird := step_busyPoll (hcfg ▸ hwf) hagenda'
    rw [if_pos hended.idle] at hthird
    exact ⟨statusRead (afterTurn t), (run_succ hfirst).trans ((run_succ hsecond).trans (run_succ hthird)), hended.idle,
      congrArg List.tail hagenda', hended.flag⟩

end Sys2Proof.Machine
end
